-- ==== Sys2Proof/Word.lean ====
section
/-! DEFINITION. The word types of FOXCORE: every access in every address space moves one whole 32-bit word
(spec/20_memory.md R101), and every sample, coefficient and physical quantity is a binary32 pattern held in such a word
(spec/00_scope.md R9, spec/20_memory.md R104). -/

namespace Sys2Proof

/-- One 32-bit word: a command word, a register value, a program word or a response word
(spec/20_memory.md R100 and R101). -/
abbrev Word := BitVec 32

/-- The bit pattern of a binary32 value: bit 31 sign, bits 30..23 biased exponent, bits 22..0 fraction
(spec/20_memory.md R104). -/
abbrev F32 := BitVec 32

/-- A sample register number, the value of a 4-bit header field; every value names a register
(spec/30_encoding.md R142). -/
abbrev XReg := Fin 16

end Sys2Proof
end

