-- ==== Sys2Proof/Config.lean ====
section
/-! DEFINITION. The implementation parameters of spec/00_scope.md R5: the counts FOXCORE-v7 takes, and the OPEN
parameters, which are constants without a body, so that no proof can rest on a value of them. -/

namespace Sys2Proof.Config

/-! ### Counts (spec/00_scope.md R5) -/

/-- Number of sample registers (R5). -/
def nX : Nat := 16
/-- Standalone delay lines (R5). -/
def nDl : Nat := 4
/-- Comb banks (R5). -/
def nBank : Nat := 2
/-- Comb units per bank (R5). -/
def nComb : Nat := 8
/-- All-pass chains (R5). -/
def nChain : Nat := 4
/-- All-pass stages per chain (R5). -/
def nStage : Nat := 4
/-- FDN lines (R5). -/
def nFdn : Nat := 8
/-- Standalone filters (R5). -/
def nFlt : Nat := 8
/-- All delay lines (R5): the index type of a delay line is Fin 44. -/
def nLines : Nat := nDl + nBank * nComb + nChain * nStage + nFdn
/-- All filters (R5): the index type of a filter is Fin 32. -/
def nFilt : Nat := nFlt + nBank * nComb + nFdn
/-- Program memory words (R5). -/
def pmemDepth : Nat := 256

/-- The literal bounds used in the types of the model are the counts of R5. -/
theorem counts_eq : nLines = 44 ∧ nFilt = 32 ∧ nBank * nComb = 16 ∧ nChain * nStage = 16 := by decide

/-! ### OPEN parameters (spec/00_scope.md R5; notes/assumptions/1.md to 4.md) -/

/-- XFN's exp on binary32 (spec/00_scope.md R12). OPEN. -/
opaque xfnExp : F32 → F32
/-- XFN's 10^v on binary32 (spec/00_scope.md R12). OPEN. -/
opaque xfnPow10 : F32 → F32
/-- XFN's tan on binary32 (spec/00_scope.md R12). OPEN. -/
opaque xfnTan : F32 → F32
/-- SHELF_COEF: (fe, FS, FLT_P) to (b0, b1, b2, a1, a2) (spec/42_filters.md R268). OPEN. -/
opaque shelfCoef : F32 → F32 → F32 → F32 × F32 × F32 × F32 × F32
/-- VICANEK_COEF: (fe, FS, FLT_P) to (b0, b1, b2, a1, a2) (spec/42_filters.md R268). OPEN. -/
opaque vicanekCoef : F32 → F32 → F32 → F32 × F32 × F32 × F32 × F32
/-- The bits that STEREO_SPREAD_MS is made of (spec/00_scope.md R5). OPEN; the model uses it through the
sanitiser, as `Sys2Proof.Machine.stereoSpreadMs` (notes/assumptions/2.md). -/
opaque stereoSpreadBits : F32
/-- RSP_DEPTH less its lower bound 2 (spec/00_scope.md R5). OPEN. -/
opaque rspExtra : Nat
/-- RSP_DEPTH, the depth of the response queue, "at least 2" (spec/00_scope.md R5). -/
def rspDepth : Nat := rspExtra + 2

end Sys2Proof.Config
end

