-- ==== Sys2Proof/Machine/Units.lean ====
section
/-! DEFINITION. The plain data of the units: enumerated register values, delay memory, and the records of a delay
line, a filter, a comb unit, a comb bank, an all-pass chain and the FDN (spec/10_state.md R45 to R78). -/

namespace Sys2Proof.Machine

/-- Cause codes 1 to 8 (spec/60_exceptions.md R400); code 0, "no error recorded since reset", is `none` in State. -/
inductive Cause where
  | illegalOpcode | context | reservedField | unitRange | regAddr | regRo | badValue | progOverrun
  deriving DecidableEq, Repr

/-- FLT_KIND (spec/10_state.md R54). -/
inductive FilterKind where
  | bypass | lp1 | hp1 | shelf1 | vicanek1 | lp2 | hp2 | raw
  deriving DecidableEq, Repr

/-- CB_SIGNMODE (spec/43_comb.md R301). -/
inductive SignMode where
  | alternate | firstPositive
  deriving DecidableEq, Repr

/-- AP_MODE (spec/44_allpass.md R330). -/
inductive ApMode where
  | canonical | literal
  deriving DecidableEq, Repr

/-- FDN_MIXMODE (spec/45_fdn.md R365). -/
inductive MixMode where
  | first | split | all
  deriving DecidableEq, Repr

/-- The words of one line's private buffer: (index, word) pairs (spec/20_memory.md R102). The smallest unit of delay
memory is the 32-bit word (spec/20_memory.md R101), so a cell holds a word. The one form is: indices strictly rising,
no listed word +0.0, which is what an unlisted index reads as (spec/40_sequencer.md R183: INIT zeroes every word). -/
abbrev Mem := List (Nat × Word)

/-- The five coefficients of a filter (spec/10_state.md R53). -/
structure Coefs where
  b0 : F32
  b1 : F32
  b2 : F32
  a1 : F32
  a2 : F32
  deriving DecidableEq, Repr

/-- A delay line (spec/10_state.md R45). -/
structure Line where
  /-- DL_MAXMS (R48). -/
  maxMs : F32
  /-- DL_LENMS (R49). -/
  lenMs : F32
  /-- DL_CAP, in words (R46, R51). -/
  cap : Nat
  /-- DL_LEN, in samples (R50, R52). -/
  len : F32
  /-- DL_WPTR, the write cursor (R47). -/
  wptr : Nat
  /-- BUF, the buffer (spec/20_memory.md R102). -/
  buf : Mem
  deriving DecidableEq, Repr

/-- A filter (spec/10_state.md R53). -/
structure Filter where
  /-- FLT_KIND (R55). -/
  kind : FilterKind
  /-- FLT_FC (R56). -/
  fc : F32
  /-- FLT_P (R57). -/
  p : F32
  /-- FLT_B0, FLT_B1, FLT_B2, FLT_A1, FLT_A2 (R58). -/
  co : Coefs
  /-- FLT_S1 (R59). -/
  s1 : F32
  /-- FLT_S2 (R59). -/
  s2 : F32
  deriving DecidableEq, Repr

/-- A comb unit's own registers (spec/10_state.md R60); its line is CBL(c) and its filter CBF(c). -/
structure Comb where
  /-- CB_FB, the signed feedback gain (R61). -/
  fb : F32
  /-- CB_MK, the linear makeup gain (R62). -/
  makeup : F32
  deriving DecidableEq, Repr

/-- A comb bank's registers (spec/10_state.md R60). -/
structure Bank where
  /-- CB_DECAY (R63). -/
  decay : F32
  /-- CB_SIGNMODE (R64). -/
  signMode : SignMode
  /-- CB_DAMPKIND (R65). -/
  dampKind : FilterKind
  /-- CB_DAMPFC (R66). -/
  dampFc : F32
  deriving DecidableEq, Repr

/-- An all-pass chain's registers (spec/10_state.md R67, R68). -/
structure Chain where
  /-- AP_G (R67). -/
  g : F32
  /-- AP_MODE (R68). -/
  mode : ApMode
  deriving DecidableEq, Repr

/-- The FDN's registers (spec/10_state.md R69); its lines are FDL(i) and its filters FDF(i). -/
structure Fdn where
  /-- FDN_ROOM (R71). -/
  room : F32
  /-- FDN_ROOMSEL bits [5:0] (R72). -/
  roomSel : BitVec 6
  /-- FDN_DECAY (R73). -/
  decay : F32
  /-- FDN_SPREAD (R74). -/
  spread : F32
  /-- FDN_MIXMODE (R75). -/
  mixMode : MixMode
  /-- FDN_MODDEPTH (R76). -/
  modDepth : F32
  /-- FDN_DAMPKIND (R77). -/
  dampKind : FilterKind
  /-- FDN_DAMPFC (R78). -/
  dampFc : F32
  /-- FDN_MODS (R70). -/
  mods : F32
  /-- FDN_G (R70). -/
  g : Vector F32 8
  deriving DecidableEq, Repr

end Sys2Proof.Machine
end

