-- ==== Sys2Proof/Machine/RegMap.lean ====
section
/-! DEFINITION. The register space: which register a 16-bit address names, its access type, and the legal values of
the enumerated registers (spec/10_state.md R35, R37, R81). -/

namespace Sys2Proof.Machine

/-! ### Codes of the enumerated values -/

/-- The code CAUSE holds (spec/60_exceptions.md R400). -/
def causeCode : Cause → Word
  | .illegalOpcode => 1#32
  | .context => 2#32
  | .reservedField => 3#32
  | .unitRange => 4#32
  | .regAddr => 5#32
  | .regRo => 6#32
  | .badValue => 7#32
  | .progOverrun => 8#32

/-- The code of a filter kind (spec/10_state.md R54). -/
def kindCode : FilterKind → Word
  | .bypass => 0#32
  | .lp1 => 1#32
  | .hp1 => 2#32
  | .shelf1 => 3#32
  | .vicanek1 => 4#32
  | .lp2 => 5#32
  | .hp2 => 6#32
  | .raw => 7#32

/-- The filter kind of a written value; none for 8 and above (spec/10_state.md R54). -/
def kindOf (v : Word) : Option FilterKind :=
  match v.toNat with
  | 0 => some .bypass
  | 1 => some .lp1
  | 2 => some .hp1
  | 3 => some .shelf1
  | 4 => some .vicanek1
  | 5 => some .lp2
  | 6 => some .hp2
  | 7 => some .raw
  | _ => none

/-- The code of a sign mode (spec/43_comb.md R301). -/
def signModeCode : SignMode → Word
  | .alternate => 0#32
  | .firstPositive => 1#32

/-- The sign mode of a written value (spec/10_state.md R64, legal 0-1). -/
def signModeOf (v : Word) : Option SignMode :=
  match v.toNat with
  | 0 => some .alternate
  | 1 => some .firstPositive
  | _ => none

/-- The code of an all-pass mode (spec/10_state.md R68). -/
def apModeCode : ApMode → Word
  | .canonical => 0#32
  | .literal => 1#32

/-- The all-pass mode of a written value (spec/10_state.md R68, legal 0-1). -/
def apModeOf (v : Word) : Option ApMode :=
  match v.toNat with
  | 0 => some .canonical
  | 1 => some .literal
  | _ => none

/-- The code of a mix mode (spec/45_fdn.md R365). -/
def mixModeCode : MixMode → Word
  | .first => 0#32
  | .split => 1#32
  | .all => 2#32

/-- The mix mode of a written value (spec/10_state.md R75, legal 0-2). -/
def mixModeOf (v : Word) : Option MixMode :=
  match v.toNat with
  | 0 => some .first
  | 1 => some .split
  | 2 => some .all
  | _ => none

/-! ### Registers -/

/-- The registers of spec/10_state.md R81, each instance index within its count. -/
inductive Reg where
  | id | version | status | cause | errWord | errPc | ctrl | fs | frameCnt
  | config0 | config1 | config2 | finL | finR | foutL | foutR
  | x (i : Fin 16)
  | pmem (i : Fin 256)
  | dlMaxMs (l : Fin 44) | dlLenMs (l : Fin 44) | dlCap (l : Fin 44) | dlLen (l : Fin 44) | dlWptr (l : Fin 44)
  | fltKind (f : Fin 32) | fltFc (f : Fin 32) | fltP (f : Fin 32)
  | fltB0 (f : Fin 32) | fltB1 (f : Fin 32) | fltB2 (f : Fin 32) | fltA1 (f : Fin 32) | fltA2 (f : Fin 32)
  | fltS1 (f : Fin 32) | fltS2 (f : Fin 32)
  | cbFb (c : Fin 16) | cbMk (c : Fin 16)
  | cbDecay (b : Fin 2) | cbSignMode (b : Fin 2) | cbDampKind (b : Fin 2) | cbDampFc (b : Fin 2)
  | apG (ch : Fin 4) | apMode (ch : Fin 4)
  | fdnRoom | fdnRoomSel | fdnDecay | fdnSpread | fdnMixMode | fdnModDepth | fdnDampKind | fdnDampFc | fdnMods
  | fdnG (i : Fin 8)
  deriving DecidableEq, Repr

/-- Instance idx of a register with n instances; an index at or beyond the count is unmapped
(spec/10_state.md R81). -/
def regInstance (n idx : Nat) (mk : Fin n → Reg) : Option Reg :=
  if h : idx < n then some (mk ⟨idx, h⟩) else none

/-- Page 0x00, the global registers (spec/10_state.md R81). -/
def regGlobal (idx : Nat) : Option Reg :=
  match idx with
  | 0x00 => some .id
  | 0x01 => some .version
  | 0x02 => some .status
  | 0x03 => some .cause
  | 0x04 => some .errWord
  | 0x05 => some .errPc
  | 0x06 => some .ctrl
  | 0x07 => some .fs
  | 0x08 => some .frameCnt
  | 0x09 => some .config0
  | 0x0A => some .config1
  | 0x0B => some .config2
  | 0x0C => some .finL
  | 0x0D => some .finR
  | 0x0E => some .foutL
  | 0x0F => some .foutR
  | _ => none

/-- Page 0x50, the FDN's scalar registers (spec/10_state.md R81). -/
def regFdnScalar (idx : Nat) : Option Reg :=
  match idx with
  | 0x00 => some .fdnRoom
  | 0x01 => some .fdnRoomSel
  | 0x02 => some .fdnDecay
  | 0x03 => some .fdnSpread
  | 0x04 => some .fdnMixMode
  | 0x05 => some .fdnModDepth
  | 0x06 => some .fdnDampKind
  | 0x07 => some .fdnDampFc
  | 0x08 => some .fdnMods
  | _ => none

/-- The register a page (address bits [15:8]) and an index (bits [7:0]) name (spec/10_state.md R35, R81). -/
def regAt (page idx : Nat) : Option Reg :=
  match page with
  | 0x00 => regGlobal idx
  | 0x01 => regInstance 16 idx .x
  | 0x02 => regInstance 256 idx .pmem
  | 0x10 => regInstance 44 idx .dlMaxMs
  | 0x11 => regInstance 44 idx .dlLenMs
  | 0x12 => regInstance 44 idx .dlCap
  | 0x13 => regInstance 44 idx .dlLen
  | 0x14 => regInstance 44 idx .dlWptr
  | 0x20 => regInstance 32 idx .fltKind
  | 0x21 => regInstance 32 idx .fltFc
  | 0x22 => regInstance 32 idx .fltP
  | 0x23 => regInstance 32 idx .fltB0
  | 0x24 => regInstance 32 idx .fltB1
  | 0x25 => regInstance 32 idx .fltB2
  | 0x26 => regInstance 32 idx .fltA1
  | 0x27 => regInstance 32 idx .fltA2
  | 0x28 => regInstance 32 idx .fltS1
  | 0x29 => regInstance 32 idx .fltS2
  | 0x30 => regInstance 16 idx .cbFb
  | 0x31 => regInstance 16 idx .cbMk
  | 0x32 => regInstance 2 idx .cbDecay
  | 0x33 => regInstance 2 idx .cbSignMode
  | 0x34 => regInstance 2 idx .cbDampKind
  | 0x35 => regInstance 2 idx .cbDampFc
  | 0x40 => regInstance 4 idx .apG
  | 0x41 => regInstance 4 idx .apMode
  | 0x50 => regFdnScalar idx
  | 0x51 => regInstance 8 idx .fdnG
  | _ => none

/-- The register an address names; none when it is unmapped (spec/10_state.md R35, R81). -/
def regOf (a : BitVec 16) : Option Reg :=
  regAt (a.extractLsb' 8 8).toNat (a.extractLsb' 0 8).toNat

/-- The address of a register, the first column of spec/10_state.md R81. -/
def regAddr : Reg → BitVec 16
  | .id => 0x0000#16
  | .version => 0x0001#16
  | .status => 0x0002#16
  | .cause => 0x0003#16
  | .errWord => 0x0004#16
  | .errPc => 0x0005#16
  | .ctrl => 0x0006#16
  | .fs => 0x0007#16
  | .frameCnt => 0x0008#16
  | .config0 => 0x0009#16
  | .config1 => 0x000A#16
  | .config2 => 0x000B#16
  | .finL => 0x000C#16
  | .finR => 0x000D#16
  | .foutL => 0x000E#16
  | .foutR => 0x000F#16
  | .x i => BitVec.ofNat 16 (0x0100 + i.val)
  | .pmem i => BitVec.ofNat 16 (0x0200 + i.val)
  | .dlMaxMs l => BitVec.ofNat 16 (0x1000 + l.val)
  | .dlLenMs l => BitVec.ofNat 16 (0x1100 + l.val)
  | .dlCap l => BitVec.ofNat 16 (0x1200 + l.val)
  | .dlLen l => BitVec.ofNat 16 (0x1300 + l.val)
  | .dlWptr l => BitVec.ofNat 16 (0x1400 + l.val)
  | .fltKind f => BitVec.ofNat 16 (0x2000 + f.val)
  | .fltFc f => BitVec.ofNat 16 (0x2100 + f.val)
  | .fltP f => BitVec.ofNat 16 (0x2200 + f.val)
  | .fltB0 f => BitVec.ofNat 16 (0x2300 + f.val)
  | .fltB1 f => BitVec.ofNat 16 (0x2400 + f.val)
  | .fltB2 f => BitVec.ofNat 16 (0x2500 + f.val)
  | .fltA1 f => BitVec.ofNat 16 (0x2600 + f.val)
  | .fltA2 f => BitVec.ofNat 16 (0x2700 + f.val)
  | .fltS1 f => BitVec.ofNat 16 (0x2800 + f.val)
  | .fltS2 f => BitVec.ofNat 16 (0x2900 + f.val)
  | .cbFb c => BitVec.ofNat 16 (0x3000 + c.val)
  | .cbMk c => BitVec.ofNat 16 (0x3100 + c.val)
  | .cbDecay b => BitVec.ofNat 16 (0x3200 + b.val)
  | .cbSignMode b => BitVec.ofNat 16 (0x3300 + b.val)
  | .cbDampKind b => BitVec.ofNat 16 (0x3400 + b.val)
  | .cbDampFc b => BitVec.ofNat 16 (0x3500 + b.val)
  | .apG ch => BitVec.ofNat 16 (0x4000 + ch.val)
  | .apMode ch => BitVec.ofNat 16 (0x4100 + ch.val)
  | .fdnRoom => 0x5000#16
  | .fdnRoomSel => 0x5001#16
  | .fdnDecay => 0x5002#16
  | .fdnSpread => 0x5003#16
  | .fdnMixMode => 0x5004#16
  | .fdnModDepth => 0x5005#16
  | .fdnDampKind => 0x5006#16
  | .fdnDampFc => 0x5007#16
  | .fdnMods => 0x5008#16
  | .fdnG i => BitVec.ofNat 16 (0x5100 + i.val)

/-- The access types (spec/10_state.md R35). -/
inductive Access where
  /-- read-only: a WREG raises REG_RO -/
  | ro
  /-- read-write -/
  | rw
  /-- write-one-to-clear (R38) -/
  | w1c
  deriving DecidableEq, Repr

/-- The access column of spec/10_state.md R81. -/
def regAccess : Reg → Access
  | .id | .version | .cause | .errWord | .errPc | .frameCnt | .config0 | .config1 | .config2 => .ro
  | .finL | .finR | .foutL | .foutR => .ro
  | .pmem _ | .dlCap _ | .dlLen _ | .dlWptr _ | .fltS1 _ | .fltS2 _ | .fdnMods | .fdnG _ => .ro
  | .status => .w1c
  | .ctrl | .fs | .x _ | .dlMaxMs _ | .dlLenMs _ => .rw
  | .fltKind _ | .fltFc _ | .fltP _ | .fltB0 _ | .fltB1 _ | .fltB2 _ | .fltA1 _ | .fltA2 _ => .rw
  | .cbFb _ | .cbMk _ | .cbDecay _ | .cbSignMode _ | .cbDampKind _ | .cbDampFc _ | .apG _ | .apMode _ => .rw
  | .fdnRoom | .fdnRoomSel | .fdnDecay | .fdnSpread | .fdnMixMode | .fdnModDepth | .fdnDampKind | .fdnDampFc => .rw

/-- Whether a value is in the legal set of an enumerated register; every other register takes every value
(spec/10_state.md R37, spec/60_exceptions.md R402). -/
def regLegal (r : Reg) (v : Word) : Bool :=
  match r with
  | .ctrl => decide (v.toNat ≤ 3)
  | .fltKind _ | .cbDampKind _ | .fdnDampKind => decide (v.toNat ≤ 7)
  | .cbSignMode _ | .apMode _ => decide (v.toNat ≤ 1)
  | .fdnRoomSel => decide (v.toNat = 0)
  | .fdnMixMode => decide (v.toNat ≤ 2)
  | _ => true

end Sys2Proof.Machine
end

