-- ==== Sys2Proof/Machine/Float.lean ====
section
/-! DEFINITION. Binary32 as spec/00_scope.md R9 uses it: round to nearest, ties to even, one rounding per operator,
no fused operation, subnormals kept; and the sanitiser S (R10), the clamp clampR (R11) and the named constants (R13).

Every finite value is an integer multiple of 2^-149. An operator computes its exact result as a fraction of such units
and rounds it once. -/

namespace Sys2Proof.F32

/-- Bits 30..23, the biased exponent (spec/20_memory.md R104). -/
def expo (v : F32) : Nat := (v.extractLsb' 23 8).toNat
/-- Bits 22..0, the fraction (spec/20_memory.md R104). -/
def frac (v : F32) : Nat := (v.extractLsb' 0 23).toNat
/-- Bit 31, the sign (spec/20_memory.md R104). -/
def isNeg (v : F32) : Bool := v.msb
/-- NaN: exponent all ones, fraction not zero. -/
def isNaN (v : F32) : Bool := expo v == 255 && frac v != 0
/-- An infinity: exponent all ones, fraction zero. -/
def isInf (v : F32) : Bool := expo v == 255 && frac v == 0
/-- Neither NaN nor an infinity. -/
def isFinite (v : F32) : Bool := expo v != 255
/-- +0.0 or -0.0. -/
def isZero (v : F32) : Bool := expo v == 0 && frac v == 0

/-- The magnitude of a finite value in units of 2^-149. An infinity gets 2^277, above every finite value, so that
comparisons treat it rightly. -/
def mag (v : F32) : Nat := if expo v = 0 then frac v else (2 ^ 23 + frac v) * 2 ^ (expo v - 1)
/-- The signed value in units of 2^-149; both zeros have value 0. -/
def val (v : F32) : Int := if isNeg v then -(mag v : Int) else (mag v : Int)

/-- A pattern from its sign and its lower 31 bits. -/
def pack (neg : Bool) (bits : Nat) : F32 := BitVec.ofNat 32 (bits + if neg then 2 ^ 31 else 0)

/-- The quiet NaN an invalid operation gives. No rule lets a NaN payload be observed (notes/assumptions/5.md). -/
def qNaN : F32 := 0x7FC00000#32

/-- The exponent shift at which num/den units of 2^-149 are rounded: the result keeps 24 significant bits, and no
fewer units than one (spec/00_scope.md R9, subnormals kept). -/
def roundShift (num den : Nat) : Nat := if num / den < 2 ^ 24 then 0 else Nat.log2 (num / den) - 23

/-- num/d rounded to the nearest integer, ties to even (spec/00_scope.md R9). -/
def roundEven (num d : Nat) : Nat :=
  if d < 2 * (num % d) ∨ (2 * (num % d) = d ∧ num / d % 2 = 1) then num / d + 1 else num / d

/-- The lower 31 bits of num/den units of 2^-149 rounded to binary32; a result past the largest finite value is the
infinity (spec/00_scope.md R9). The mantissa carry of a rounding up runs into the exponent field by addition. -/
def roundMag (num den : Nat) : Nat :=
  min (roundShift num den * 2 ^ 23 + roundEven num (den * 2 ^ roundShift num den)) 0x7F800000

/-- Binary32 addition (spec/00_scope.md R9). An exact zero sum is -0.0 only when both operands are negative. -/
def add (a b : F32) : F32 :=
  if isNaN a || isNaN b then qNaN
  else if isInf a then (if isInf b && (isNeg a != isNeg b) then qNaN else a)
  else if isInf b then b
  else if val a + val b = 0 then pack (isNeg a && isNeg b) 0
  else pack (decide (val a + val b < 0)) (roundMag (val a + val b).natAbs 1)

/-- Negation flips the sign bit and is exact (spec/00_scope.md R9). -/
def neg (v : F32) : F32 := v ^^^ 0x80000000#32

/-- Binary32 subtraction: a + (-b) (spec/00_scope.md R9). -/
def sub (a b : F32) : F32 := add a (neg b)

/-- Binary32 multiplication (spec/00_scope.md R9). -/
def mul (a b : F32) : F32 :=
  if isNaN a || isNaN b then qNaN
  else if isInf a || isInf b then
    (if isZero a || isZero b then qNaN else pack (isNeg a != isNeg b) 0x7F800000)
  else pack (isNeg a != isNeg b) (roundMag (mag a * mag b) (2 ^ 149))

/-- Binary32 division (spec/00_scope.md R9). -/
def div (a b : F32) : F32 :=
  if isNaN a || isNaN b then qNaN
  else if isInf a then (if isInf b then qNaN else pack (isNeg a != isNeg b) 0x7F800000)
  else if isInf b then pack (isNeg a != isNeg b) 0
  else if isZero b then (if isZero a then qNaN else pack (isNeg a != isNeg b) 0x7F800000)
  else pack (isNeg a != isNeg b) (roundMag (mag a * 2 ^ 149) (mag b))

/-- IEEE `a < b`: false when either operand is NaN, and -0.0 equals +0.0 (spec/00_scope.md R9). -/
def lt (a b : F32) : Bool := !isNaN a && !isNaN b && decide (val a < val b)

/-- f32(n), the binary32 value of an integer (spec/00_scope.md R14; exact for n up to 2^24). -/
def ofNat (n : Nat) : F32 := pack false (roundMag (n * 2 ^ 149) 1)

/-- floor of a non-negative value (spec/00_scope.md R14). -/
def floorNat (v : F32) : Nat := mag v / 2 ^ 149

/-- ceil of a value, 0 for a negative one (spec/10_state.md R51, where every result below 2 is replaced by 2). -/
def ceilNat (v : F32) : Nat := if isNeg v then 0 else (mag v + (2 ^ 149 - 1)) / 2 ^ 149

/-! ### Named constants (spec/00_scope.md R13) and the decimals the rules write -/

/-- FLT_MAX (R13). -/
def fltMax : F32 := 0x7F7FFFFF#32
/-- PI32 (R13). -/
def pi32 : F32 := 0x40490FDB#32
/-- TWOPI32 (R13). -/
def twoPi32 : F32 := 0x40C90FDB#32
/-- SQRT2_32 (R13). -/
def sqrt2 : F32 := 0x3FB504F3#32
/-- NYQ, 0.45 (R13). -/
def nyq : F32 := 0x3EE66666#32
/-- GMAX, 1 - 2^-16 (R13). -/
def gmax : F32 := 0x3F7FFF00#32
/-- -GMAX. -/
def negGmax : F32 := 0xBF7FFF00#32
/-- +0.0. -/
def zero : F32 := 0x00000000#32
/-- 1.0. -/
def one : F32 := 0x3F800000#32
/-- -1.0. -/
def negOne : F32 := 0xBF800000#32
/-- 2.0. -/
def two : F32 := 0x40000000#32
/-- -2.0. -/
def negTwo : F32 := 0xC0000000#32
/-- -3.0. -/
def negThree : F32 := 0xC0400000#32
/-- 0.5. -/
def half : F32 := 0x3F000000#32
/-- 0.25, the weight 2/N of the FDN for N = 8. -/
def quarter : F32 := 0x3E800000#32
/-- 0.125, the weight 1/N of the FDN for N = 8. -/
def eighth : F32 := 0x3E000000#32
/-- 0.01. -/
def c0_01 : F32 := 0x3C23D70A#32
/-- 20.0. -/
def c20 : F32 := 0x41A00000#32
/-- 50.0. -/
def c50 : F32 := 0x42480000#32
/-- 100.0. -/
def c100 : F32 := 0x42C80000#32
/-- 300.0. -/
def c300 : F32 := 0x43960000#32
/-- 500.0. -/
def c500 : F32 := 0x43FA0000#32
/-- 1000.0. -/
def c1000 : F32 := 0x447A0000#32
/-- 8000.0. -/
def c8000 : F32 := 0x45FA0000#32
/-- 20000.0. -/
def c20000 : F32 := 0x469C4000#32
/-- 44100.0. -/
def c44100 : F32 := 0x472C4400#32
/-- 100000.0. -/
def c100000 : F32 := 0x47C35000#32
/-- 192000.0. -/
def c192000 : F32 := 0x483B8000#32

/-! ### The sanitiser and the clamp -/

/-- The sanitiser S (spec/00_scope.md R10): NaN to +0.0, an infinity to the largest finite value of its sign, every
finite value unchanged. -/
def sanitise (v : F32) : F32 :=
  if isNaN v then zero
  else if isInf v then (if isNeg v then 0xFF7FFFFF#32 else fltMax)
  else v

/-- clampR(v, lo, hi) (spec/00_scope.md R11). -/
def clampR (v lo hi : F32) : F32 :=
  if isNaN v || lt v lo then lo else if lt hi v then hi else v

end Sys2Proof.F32
end

