-- ==== Sys2Proof/Machine/Index.lean ====
section
/-! DEFINITION. Which delay line and which filter each unit owns, and what a line's class and channel are
(spec/00_scope.md R5 and R6). -/

namespace Sys2Proof.Machine

/-- The unit that owns a delay line (spec/00_scope.md R6). -/
inductive LineOwner where
  | standalone (j : Fin 4)
  | comb (c : Fin 16)
  | allpass (a : Fin 16)
  | fdn (i : Fin 8)
  deriving DecidableEq, Repr

/-- The unit that owns a filter (spec/00_scope.md R6). -/
inductive FilterOwner where
  | standalone (j : Fin 8)
  | comb (c : Fin 16)
  | fdn (i : Fin 8)
  deriving DecidableEq, Repr

/-- CBL(c), the delay line of comb unit c (spec/00_scope.md R6). -/
def cbl (c : Fin 16) : Fin 44 := ⟨4 + c.val, by omega⟩
/-- APL(a), the delay line of all-pass stage a (spec/00_scope.md R6). -/
def apl (a : Fin 16) : Fin 44 := ⟨20 + a.val, by omega⟩
/-- FDL(i), the delay line of FDN line i (spec/00_scope.md R6). -/
def fdl (i : Fin 8) : Fin 44 := ⟨36 + i.val, by omega⟩
/-- CBF(c), the damping filter of comb unit c (spec/00_scope.md R6). -/
def cbf (c : Fin 16) : Fin 32 := ⟨8 + c.val, by omega⟩
/-- FDF(i), the damping filter of FDN line i (spec/00_scope.md R6). -/
def fdf (i : Fin 8) : Fin 32 := ⟨24 + i.val, by omega⟩

/-- Lines 0-3 standalone, 4-19 comb, 20-35 all-pass, 36-43 FDN (spec/00_scope.md R6). -/
def lineOwner (l : Fin 44) : LineOwner :=
  if h0 : l.val < 4 then .standalone ⟨l.val, h0⟩
  else if h1 : l.val < 20 then .comb ⟨l.val - 4, by omega⟩
  else if h2 : l.val < 36 then .allpass ⟨l.val - 20, by omega⟩
  else .fdn ⟨l.val - 36, by omega⟩

/-- Filters 0-7 standalone, 8-23 comb damping, 24-31 FDN damping (spec/00_scope.md R6). -/
def filterOwner (f : Fin 32) : FilterOwner :=
  if h0 : f.val < 8 then .standalone ⟨f.val, h0⟩
  else if h1 : f.val < 24 then .comb ⟨f.val - 8, by omega⟩
  else .fdn ⟨f.val - 24, by omega⟩

/-- The bank of comb unit c = 8b + k (spec/00_scope.md R6). -/
def bankOf (c : Fin 16) : Fin 2 := ⟨c.val / 8, by omega⟩
/-- The position k of comb unit c = 8b + k in its bank (spec/00_scope.md R6). -/
def posOf (c : Fin 16) : Fin 8 := ⟨c.val % 8, by omega⟩
/-- The comb unit 8b + k (spec/00_scope.md R6). -/
def combOf (b : Fin 2) (k : Fin 8) : Fin 16 := ⟨8 * b.val + k.val, by omega⟩
/-- The chain of all-pass stage a = 4ch + k (spec/00_scope.md R6). -/
def chainOf (a : Fin 16) : Fin 4 := ⟨a.val / 4, by omega⟩
/-- The all-pass stage 4ch + k (spec/00_scope.md R6). -/
def stageOf (ch : Fin 4) (k : Fin 4) : Fin 16 := ⟨4 * ch.val + k.val, by omega⟩

/-- A right-channel unit: a comb bank with b odd or an all-pass chain with ch odd (spec/00_scope.md R6). -/
def rightChannel (l : Fin 44) : Bool :=
  match lineOwner l with
  | .comb c => (bankOf c).val % 2 == 1
  | .allpass a => (chainOf a).val % 2 == 1
  | .standalone _ => false
  | .fdn _ => false

/-- PHYS(l), the physical words of a line, by its class (spec/00_scope.md R5, spec/10_state.md R51). -/
def phys (l : Fin 44) : Nat :=
  match lineOwner l with
  | .standalone _ => 32768
  | .comb _ => 8192
  | .allpass _ => 4096
  | .fdn _ => 16384

end Sys2Proof.Machine
end

