-- ==== Sys2Proof/Machine/Derived.lean ====
section
/-! DEFINITION. The derived registers as functions of the canonical ones: DL_CAP, DL_LEN, the filter coefficients,
CB_FB, FDN_G and FDN_MODS (spec/10_state.md R31). A calculation that can set STATUS.CLAMP answers a pair: the value, and
whether it clamps. -/

namespace Sys2Proof.Machine

open Sys2Proof

/-- STEREO_SPREAD_MS, an OPEN finite binary32 constant (spec/00_scope.md R5; notes/assumptions/2.md). -/
def stereoSpreadMs : F32 := F32.sanitise Config.stereoSpreadBits

/-- FDN_MOD_MAX_MS = 1.0 (spec/00_scope.md R5). -/
def fdnModMaxMs : F32 := F32.one

/-! ### Delay lines -/

/-- CAPCALC: the capacity of line l (spec/10_state.md R51). -/
def capCalc (fs : F32) (l : Fin 44) (maxMs : F32) : Nat × Bool :=
  let n := F32.ceilNat (F32.div (F32.mul maxMs fs) F32.c1000) + 1
  let n' := if phys l < n then phys l else n
  (if n' < 2 then 2 else n', decide (phys l < n))

/-- The milliseconds LENCALC starts from: scaled by FDN_ROOM for an FDN line, offset by STEREO_SPREAD_MS for a
right-channel unit (spec/10_state.md R50, spec/45_fdn.md R361, spec/43_comb.md R307, spec/44_allpass.md R333). -/
def effectiveMs (room : F32) (l : Fin 44) (lenMs : F32) : F32 :=
  match lineOwner l with
  | .fdn _ => F32.mul lenMs room
  | _ => if rightChannel l then F32.add lenMs stereoSpreadMs else lenMs

/-- LENCALC: the nominal delay in samples of line l (spec/10_state.md R50). -/
def lenCalc (fs room : F32) (l : Fin 44) (lenMs : F32) (cap : Nat) : F32 × Bool :=
  let s := F32.div (F32.mul (effectiveMs room l lenMs) fs) F32.c1000
  let top := F32.ofNat (cap - 1)
  let s' := if F32.lt top s then top else s
  (if F32.lt s' F32.one then F32.one else s', F32.lt top s)

/-! ### Filters -/

/-- The BYPASS coefficients (spec/42_filters.md R262). -/
def bypassCoefs : Coefs := ⟨F32.one, F32.zero, F32.zero, F32.zero, F32.zero⟩

/-- Every coefficient through S (spec/42_filters.md R261). -/
def sanitiseCoefs (c : Coefs) : Coefs :=
  ⟨F32.sanitise c.b0, F32.sanitise c.b1, F32.sanitise c.b2, F32.sanitise c.a1, F32.sanitise c.a2⟩

/-- exp(-2*pi*fe/FS), the pole of the one-pole kinds (spec/42_filters.md R263). -/
def onePole (fs fe : F32) : F32 := Config.xfnExp (F32.neg (F32.mul F32.twoPi32 (F32.div fe fs)))

/-- LP1 (spec/42_filters.md R263). -/
def lp1Coefs (fs fe : F32) : Coefs :=
  let a := onePole fs fe
  ⟨F32.sub F32.one a, F32.zero, F32.zero, F32.neg a, F32.zero⟩

/-- HP1 (spec/42_filters.md R264). -/
def hp1Coefs (fs fe : F32) : Coefs :=
  let a := onePole fs fe
  ⟨a, F32.neg a, F32.zero, F32.neg a, F32.zero⟩

/-- K = tan(pi*fe/FS) of the Butterworth kinds (spec/42_filters.md R265). -/
def warp (fs fe : F32) : F32 := Config.xfnTan (F32.mul F32.pi32 (F32.div fe fs))

/-- n = 1/((1 + r) + K2) with r = SQRT2_32*K and K2 = K*K (spec/42_filters.md R265). -/
def butterN (k : F32) : F32 :=
  F32.div F32.one (F32.add (F32.add F32.one (F32.mul F32.sqrt2 k)) (F32.mul k k))

/-- a1 of the Butterworth kinds (spec/42_filters.md R265). -/
def butterA1 (k : F32) : F32 :=
  F32.mul (F32.mul F32.two (F32.sub (F32.mul k k) F32.one)) (butterN k)

/-- a2 of the Butterworth kinds (spec/42_filters.md R265). -/
def butterA2 (k : F32) : F32 :=
  F32.mul (F32.add (F32.sub F32.one (F32.mul F32.sqrt2 k)) (F32.mul k k)) (butterN k)

/-- LP2 (spec/42_filters.md R265). -/
def lp2Coefs (fs fe : F32) : Coefs :=
  let k := warp fs fe
  let b0 := F32.mul (F32.mul k k) (butterN k)
  ⟨b0, F32.mul F32.two b0, b0, butterA1 k, butterA2 k⟩

/-- HP2 (spec/42_filters.md R266). -/
def hp2Coefs (fs fe : F32) : Coefs :=
  let k := warp fs fe
  ⟨butterN k, F32.mul F32.negTwo (butterN k), butterN k, butterA1 k, butterA2 k⟩

/-- A zero of the sign the parameter function gives: SHELF_COEF and VICANEK_COEF are required to answer b2 = a2 = 0
(spec/42_filters.md R268; notes/assumptions/3.md). -/
def zeroOf (v : F32) : F32 := v &&& 0x80000000#32

/-- SHELF1 and VICANEK1 from their OPEN parameter function (spec/42_filters.md R268). -/
def openCoefs (r : F32 × F32 × F32 × F32 × F32) : Coefs :=
  ⟨r.1, r.2.1, zeroOf r.2.2.1, r.2.2.2.1, zeroOf r.2.2.2.2⟩

/-- fe, the cutoff the derivation uses, and whether the limit NYQ*FS was applied (spec/42_filters.md R261). -/
def effectiveFc (fs fc : F32) : F32 × Bool :=
  let lim := F32.mul F32.nyq fs
  (if F32.lt lim fc then lim else fc, F32.lt lim fc)

/-- The coefficients of a derived kind at the effective cutoff, before S (spec/42_filters.md R261). -/
def kindCoefs (k : FilterKind) (fs fe p : F32) (old : Coefs) : Coefs :=
  match k with
  | .bypass => bypassCoefs
  | .lp1 => lp1Coefs fs fe
  | .hp1 => hp1Coefs fs fe
  | .shelf1 => openCoefs (Config.shelfCoef fe fs p)
  | .vicanek1 => openCoefs (Config.vicanekCoef fe fs p)
  | .lp2 => lp2Coefs fs fe
  | .hp2 => hp2Coefs fs fe
  | .raw => old

/-- COEFCALC: RAW keeps its coefficients, BYPASS is fixed, every other kind is derived at the effective cutoff and
stored through S (spec/42_filters.md R261, R267). -/
def coefCalc (fs : F32) (f : Filter) : Coefs × Bool :=
  match f.kind with
  | .raw => (f.co, false)
  | .bypass => (bypassCoefs, false)
  | k => (sanitiseCoefs (kindCoefs k fs (effectiveFc fs f.fc).1 f.p f.co), (effectiveFc fs f.fc).2)

/-! ### Gains and modulation -/

/-- DECAYMAG(L, T) (spec/43_comb.md R300): 10^(-3L/(T*FS)), the factor per pass that R303 rests on, capped at GMAX. -/
def decayMag (fs len decay : F32) : F32 × Bool :=
  let m := Config.xfnPow10 (F32.div (F32.mul F32.negThree len) (F32.mul decay fs))
  (if F32.lt F32.gmax m then F32.gmax else m, F32.lt F32.gmax m)

/-- Whether unit k of a bank has a negative gain (spec/43_comb.md R301). -/
def signNegative (mode : SignMode) (k : Fin 8) : Bool :=
  match mode with
  | .alternate => k.val % 2 == 1
  | .firstPositive => k.val != 0

/-- CBGAIN: the derived gain of the comb unit at position k of a bank (spec/43_comb.md R302). -/
def combGain (fs len : F32) (bank : Bank) (k : Fin 8) : F32 × Bool :=
  let m := decayMag fs len bank.decay
  (if signNegative bank.signMode k then F32.neg m.1 else m.1, m.2)

/-- MODCALC: the modulation excursion in samples (spec/45_fdn.md R363). -/
def modCalc (fs depth : F32) : F32 := F32.div (F32.mul (F32.mul depth fdnModMaxMs) fs) F32.c1000

end Sys2Proof.Machine
end

