-- ==== Sys2Proof/Machine/State.lean ====
section
/-! DEFINITION. State, all of it (spec/10_state.md R30), as plain data; the ways a step can stop; and the state right
after reset (spec/70_reset_and_hazards.md R441, R443). -/

namespace Sys2Proof.Machine

open Sys2Proof

/-- Why the machine stops with a fault. There is no constructor: FOXCORE never stops. "No error stops the sequencer"
(spec/60_exceptions.md R405), no rule raises a trap (R407), every access is aligned (spec/20_memory.md R101), and no
command reaches an address that does not exist: a bad register address, unit index or program index is a command error,
which is recorded and the machine goes on (spec/60_exceptions.md R403, R404). -/
inductive Fault where
  deriving DecidableEq, Repr

/-- Why a command has no meaning. -/
inductive Refusal where
  /-- raised by an arm of exec whose command is not modelled yet (none is); safe: a step that refuses proves nothing -/
  | notModelled (mnemonic : String)
  deriving DecidableEq, Repr

/-- The state of the machine (spec/10_state.md R30). The parameters of spec/00_scope.md R5 are not state. -/
structure State where
  /-- x0 to x15 (R32) -/
  x : Vector F32 16
  /-- FIN_L (R34) -/
  finL : F32
  /-- FIN_R (R34) -/
  finR : F32
  /-- FOUT_L (R34) -/
  foutL : F32
  /-- FOUT_R (R34) -/
  foutR : F32
  /-- PC: exists only while a FRAME runs its program (R33); none is the host context -/
  pc : Option Nat
  /-- PMEM (R44; spec/20_memory.md R103) -/
  pmem : Vector Word 256
  /-- STATUS.ERR (R38) -/
  err : Bool
  /-- STATUS.CLAMP (R38) -/
  clamp : Bool
  /-- CAUSE (R39); none is code 0 -/
  cause : Option Cause
  /-- ERRWORD (R39) -/
  errWord : Word
  /-- ERRPC (R39) -/
  errPc : Word
  /-- CTRL.ERRIE (R40) -/
  errIe : Bool
  /-- CTRL.CLAMPIE (R40) -/
  clampIe : Bool
  /-- FS (R41) -/
  fs : F32
  /-- FRAMECNT (R42) -/
  frameCnt : BitVec 32
  /-- the delay lines (R45 to R52) -/
  lines : Vector Line 44
  /-- the filters (R53 to R59) -/
  filters : Vector Filter 32
  /-- the comb units (R60 to R62) -/
  combs : Vector Comb 16
  /-- the comb banks (R60, R63 to R66) -/
  banks : Vector Bank 2
  /-- the all-pass chains (R67, R68) -/
  chains : Vector Chain 4
  /-- the feedback delay network (R69 to R78) -/
  fdn : Fdn
  /-- words of the host stream that have arrived and are not yet consumed, oldest first; a command whose data words have
  not all arrived stands here (R79 (b); spec/30_encoding.md R151) -/
  hostIn : List Word
  /-- response words emitted and not yet read by the host, oldest first (R79 (a)); those past RSP_DEPTH are the ones the
  sequencer is stalled on (spec/30_encoding.md R152; notes/assumptions/6.md) -/
  rsp : List Word
  /-- the IRQ output level (R79 (c); spec/60_exceptions.md R406) -/
  irq : Bool
  deriving DecidableEq, Repr

/-! ### Reset -/

/-- A delay line after reset (spec/10_state.md R46 to R52). -/
def resetLine (l : Fin 44) : Line :=
  match lineOwner l with
  | .standalone _ => ⟨F32.c500, F32.zero, 22051, (lenCalc F32.c44100 F32.one l F32.zero 22051).1, 0, []⟩
  | .comb _ => ⟨F32.c100, F32.zero, 4411, (lenCalc F32.c44100 F32.one l F32.zero 4411).1, 0, []⟩
  | .allpass _ => ⟨F32.c50, F32.zero, 2206, (lenCalc F32.c44100 F32.one l F32.zero 2206).1, 0, []⟩
  | .fdn _ => ⟨F32.c300, F32.zero, 13231, (lenCalc F32.c44100 F32.one l F32.zero 13231).1, 0, []⟩

/-- A filter after reset: BYPASS (spec/10_state.md R55 to R59). -/
def resetFilter : Filter := ⟨.bypass, F32.c1000, F32.one, bypassCoefs, F32.zero, F32.zero⟩

/-- A comb bank after reset (spec/10_state.md R63 to R66). -/
def resetBank : Bank := ⟨F32.one, .alternate, .bypass, F32.c1000⟩

/-- A comb unit after reset: the gain CBGAIN gives, unit makeup (spec/10_state.md R61, R62). -/
def resetComb (c : Fin 16) : Comb := ⟨(combGain F32.c44100 (resetLine (cbl c)).len resetBank (posOf c)).1, F32.one⟩

/-- The FDN after reset (spec/10_state.md R70 to R78). -/
def resetFdn : Fdn :=
  { room := F32.one
    roomSel := 0#6
    decay := F32.one
    spread := F32.zero
    mixMode := .first
    modDepth := F32.zero
    dampKind := .bypass
    dampFc := F32.c1000
    mods := F32.zero
    g := Vector.ofFn fun i => (decayMag F32.c44100 (resetLine (fdl i)).len F32.one).1 }

/-- The machine right after reset (spec/70_reset_and_hazards.md R443, R444): no program, no host word, no response. -/
def State.reset : State :=
  { x := Vector.replicate 16 F32.zero
    finL := F32.zero
    finR := F32.zero
    foutL := F32.zero
    foutR := F32.zero
    pc := none
    pmem := Vector.replicate 256 0#32
    err := false
    clamp := false
    cause := none
    errWord := 0#32
    errPc := 0#32
    errIe := false
    clampIe := false
    fs := F32.c44100
    frameCnt := 0#32
    lines := Vector.ofFn resetLine
    filters := Vector.replicate 32 resetFilter
    combs := Vector.ofFn resetComb
    banks := Vector.replicate 2 resetBank
    chains := Vector.replicate 4 ⟨F32.zero, .canonical⟩
    fdn := resetFdn
    hostIn := []
    rsp := []
    irq := false }

end Sys2Proof.Machine
end

