-- ==== Sys2Proof/Machine/Flags.lean ====
section
/-! DEFINITION. The flags: STATUS.ERR and STATUS.CLAMP, the enables of CTRL, and the IRQ level
(spec/10_state.md R38, R40, R80, spec/60_exceptions.md R406). No arithmetic command computes a flag (R80). -/

namespace Sys2Proof.Machine

open Sys2Proof

/-- The value STATUS reads as: bit 0 ERR, bit 1 CLAMP, bits [31:2] 0 (spec/10_state.md R38). -/
def statusWord (s : State) : Word :=
  (if s.err then 1#32 else 0#32) ||| (if s.clamp then 2#32 else 0#32)

/-- A WREG to STATUS: a 1 bit clears its flag, a 0 bit leaves it, bits [31:2] are ignored (spec/10_state.md R38). -/
def clearStatus (v : Word) (s : State) : State :=
  { s with err := s.err && !v.getLsbD 0, clamp := s.clamp && !v.getLsbD 1 }

/-- Set STATUS.CLAMP when a clamp happened; the flag is sticky (spec/10_state.md R38). -/
def orClamp (b : Bool) (s : State) : State := { s with clamp := s.clamp || b }

/-- The value CTRL reads as: bit 0 ERRIE, bit 1 CLAMPIE (spec/10_state.md R40). -/
def ctrlWord (s : State) : Word :=
  (if s.errIe then 1#32 else 0#32) ||| (if s.clampIe then 2#32 else 0#32)

/-- A WREG of a legal value to CTRL (spec/10_state.md R40). -/
def setCtrl (v : Word) (s : State) : State := { s with errIe := v.getLsbD 0, clampIe := v.getLsbD 1 }

/-- IRQ = (ERR and ERRIE) or (CLAMP and CLAMPIE) (spec/60_exceptions.md R406). -/
def irqLevel (s : State) : Bool := (s.err && s.errIe) || (s.clamp && s.clampIe)

end Sys2Proof.Machine
end

