-- ==== Sys2Proof/Machine/Memory.lean ====
section
/-! DEFINITION. Reads and writes of delay memory cells, and the one form a buffer has (spec/20_memory.md R102). -/

namespace Sys2Proof.Machine

/-- What an unlisted word reads as: +0.0, the contents INIT and reset give every reachable word
(spec/40_sequencer.md R183, spec/70_reset_and_hazards.md R442). -/
def memDefault : Word := 0x00000000#32

/-- The word at an index (spec/20_memory.md R102). -/
def memRead : Mem → Nat → Word
  | [], _ => memDefault
  | (k, w) :: m, a => if k = a then w else memRead m a

/-- Store a word at an index, keeping the one form: the cell goes to its sorted place, and a stored +0.0 removes it. -/
def memWrite : Mem → Nat → Word → Mem
  | [], a, v => if v = memDefault then [] else [(a, v)]
  | (k, w) :: m, a, v =>
    if a < k then (if v = memDefault then (k, w) :: m else (a, v) :: (k, w) :: m)
    else if a = k then (if v = memDefault then m else (a, v) :: m)
    else (k, w) :: memWrite m a v

/-- The one form of a buffer from a least index on: indices strictly rising, no listed word +0.0. -/
def memWfFrom : Nat → Mem → Bool
  | _, [] => true
  | lo, (k, w) :: m => decide (lo ≤ k) && decide (w ≠ memDefault) && memWfFrom (k + 1) m

/-- The one form of a buffer. -/
def memWf (m : Mem) : Bool := memWfFrom 0 m

/-- Every listed index is below a bound (spec/20_memory.md R102: only indices below DL_CAP are reachable). -/
def memBelow (n : Nat) (m : Mem) : Bool := m.all fun c => decide (c.1 < n)

end Sys2Proof.Machine
end

