-- ==== Sys2Proof/Syntax.lean ====
section
/-! DEFINITION. The 24 commands of FOXCORE (spec/30_encoding.md R146), one constructor per row of
spec/opcode_table.json, each with the fields its format uses (R145) and its data words (R148). -/

namespace Sys2Proof

/-- A command. The docstring of each constructor names its mnemonic, its format and its rule. -/
inductive Instr where
  /-- END, format Z (spec/40_sequencer.md R187). -/
  | endProg
  /-- NOP, format Z (spec/40_sequencer.md R188). -/
  | nop
  /-- WREG, format A2: register address, value (spec/40_sequencer.md R181). -/
  | wreg (addr : BitVec 16) (v : Word)
  /-- RREG, format A: register address (spec/40_sequencer.md R182). -/
  | rreg (addr : BitVec 16)
  /-- INIT, format Z (spec/40_sequencer.md R183). -/
  | init
  /-- PLOAD, format A2: program index, program word (spec/40_sequencer.md R184). -/
  | pload (addr : BitVec 16) (p : Word)
  /-- FRAME, format Z3: left and right input sample (spec/40_sequencer.md R185). -/
  | frame (l r : Word)
  /-- MOV, format R2 (spec/40_sequencer.md R189). -/
  | mov (xa xb : XReg)
  /-- ADD, format R3 (spec/40_sequencer.md R190). -/
  | add (xa xb xc : XReg)
  /-- SUB, format R3 (spec/40_sequencer.md R191). -/
  | sub (xa xb xc : XReg)
  /-- MUL, format R3 (spec/40_sequencer.md R192). -/
  | mul (xa xb xc : XReg)
  /-- LDK, format K: destination, binary32 immediate (spec/40_sequencer.md R193). -/
  | ldk (xa : XReg) (k : Word)
  /-- IN, format R2: left and right destination (spec/40_sequencer.md R194). -/
  | inp (xa xb : XReg)
  /-- OUT, format RO: left and right source (spec/40_sequencer.md R195). -/
  | out (xb xc : XReg)
  /-- DL.RD, format UD (spec/41_delay_line.md R234). -/
  | dlRd (xa : XReg) (u : BitVec 12)
  /-- DL.RDO, format UDS: XB is the offset register (spec/41_delay_line.md R235). -/
  | dlRdo (xa xb : XReg) (u : BitVec 12)
  /-- DL.WR, format US (spec/41_delay_line.md R236). -/
  | dlWr (xb : XReg) (u : BitVec 12)
  /-- DL.PROC, format UDS (spec/41_delay_line.md R237). -/
  | dlProc (xa xb : XReg) (u : BitVec 12)
  /-- FLT.PROC, format UDS (spec/42_filters.md R272). -/
  | fltProc (xa xb : XReg) (u : BitVec 12)
  /-- COMB.PROC, format UDS (spec/43_comb.md R305). -/
  | combProc (xa xb : XReg) (u : BitVec 12)
  /-- CB.PROC, format UDS (spec/43_comb.md R306). -/
  | cbProc (xa xb : XReg) (u : BitVec 12)
  /-- AP.PROC, format UDS (spec/44_allpass.md R334). -/
  | apProc (xa xb : XReg) (u : BitVec 12)
  /-- APC.PROC, format UDS (spec/44_allpass.md R335). -/
  | apcProc (xa xb : XReg) (u : BitVec 12)
  /-- FDN.PROC, format N: XE right destination, XM modulation (spec/45_fdn.md R366). -/
  | fdnProc (xa xb xc xe xm : XReg)
  deriving DecidableEq, Repr

/-- The 24 assigned opcodes (spec/30_encoding.md R146). -/
inductive Opcode where
  | endProg | nop | wreg | rreg | init | pload | frame
  | mov | add | sub | mul | ldk | inp | out
  | dlRd | dlRdo | dlWr | dlProc | fltProc | combProc | cbProc | apProc | apcProc | fdnProc
  deriving DecidableEq, Repr

/-- The opcode of a command. -/
def Instr.opcode : Instr → Opcode
  | .endProg => .endProg
  | .nop => .nop
  | .wreg _ _ => .wreg
  | .rreg _ => .rreg
  | .init => .init
  | .pload _ _ => .pload
  | .frame _ _ => .frame
  | .mov _ _ => .mov
  | .add _ _ _ => .add
  | .sub _ _ _ => .sub
  | .mul _ _ _ => .mul
  | .ldk _ _ => .ldk
  | .inp _ _ => .inp
  | .out _ _ => .out
  | .dlRd _ _ => .dlRd
  | .dlRdo _ _ _ => .dlRdo
  | .dlWr _ _ => .dlWr
  | .dlProc _ _ _ => .dlProc
  | .fltProc _ _ _ => .fltProc
  | .combProc _ _ _ => .combProc
  | .cbProc _ _ _ => .cbProc
  | .apProc _ _ _ => .apProc
  | .apcProc _ _ _ => .apcProc
  | .fdnProc _ _ _ _ _ => .fdnProc

end Sys2Proof
end

