-- ==== Sys2Proof/WellFormed.lean ====
section
/-! DEFINITION. Well-formed commands: those that pass the checks of spec/60_exceptions.md R401 which depend on the
command alone, UNIT_RANGE, REG_ADDR, REG_RO and BAD_VALUE. (ILLEGAL_OPCODE and RESERVED_FIELD are the decoder's, and
CONTEXT depends on the state.) Every term of Instr has an encoding, well-formed or not. -/

namespace Sys2Proof

open Sys2Proof.Machine

/-- The bound of the unit field of a command, or of PLOAD's address; none where the command has neither
(spec/30_encoding.md R143, spec/60_exceptions.md R402). -/
def Opcode.unitCount : Opcode → Option Nat
  | .dlRd | .dlRdo | .dlWr | .dlProc => some 44
  | .fltProc => some 32
  | .combProc => some 16
  | .cbProc => some 2
  | .apProc => some 16
  | .apcProc => some 4
  | .pload => some 256
  | _ => none

/-- The unit field of a command, or PLOAD's address (spec/30_encoding.md R143, R144). -/
def Instr.unitIndex : Instr → Option Nat
  | .dlRd _ u | .dlRdo _ _ u | .dlWr _ u | .dlProc _ _ u | .fltProc _ _ u => some u.toNat
  | .combProc _ _ u | .cbProc _ _ u | .apProc _ _ u | .apcProc _ _ u => some u.toNat
  | .pload a _ => some a.toNat
  | _ => none

/-- Check 4 of R401: the unit index is below its count. -/
def Instr.unitOk (i : Instr) : Bool :=
  match i.unitIndex, i.opcode.unitCount with
  | some u, some n => decide (u < n)
  | _, _ => true

/-- Checks 5, 6 and 7 of R401 for a WREG: mapped, not read-only, a legal value. -/
def wregError (a : BitVec 16) (v : Word) : Option Cause :=
  match regOf a with
  | none => some .regAddr
  | some r => if regAccess r = .ro then some .regRo else if regLegal r v then none else some .badValue

/-- Check 5 of R401 for an RREG: mapped. -/
def rregError (a : BitVec 16) : Option Cause :=
  match regOf a with
  | none => some .regAddr
  | some _ => none

/-- The first of the checks 4 to 7 of R401 that the command fails (spec/60_exceptions.md R401, R402). -/
def Instr.staticError (i : Instr) : Option Cause :=
  if i.unitOk then
    match i with
    | .wreg a v => wregError a v
    | .rreg a => rregError a
    | _ => none
  else some .unitRange

/-- A command that fails none of the checks that depend on it alone. -/
abbrev Instr.WellFormed (i : Instr) : Prop := i.staticError = none

end Sys2Proof
end

