-- ==== Sys2Proof/Decode.lean ====
section
/-! DEFINITION. The decoder, total on every list of words and rejecting by name, and after it the encoder, both from the
tables of spec/30_encoding.md (R140, R141, R145, R146, R147, R149). -/

namespace Sys2Proof

/-! ### The opcode map (spec/30_encoding.md R146) -/

/-- The opcode value OP of a command (R146). -/
def Opcode.bits : Opcode → BitVec 8
  | .endProg => 0x00#8
  | .nop => 0x01#8
  | .wreg => 0x02#8
  | .rreg => 0x03#8
  | .init => 0x04#8
  | .pload => 0x05#8
  | .frame => 0x06#8
  | .mov => 0x10#8
  | .add => 0x11#8
  | .sub => 0x12#8
  | .mul => 0x13#8
  | .ldk => 0x14#8
  | .inp => 0x15#8
  | .out => 0x16#8
  | .dlRd => 0x20#8
  | .dlRdo => 0x21#8
  | .dlWr => 0x22#8
  | .dlProc => 0x23#8
  | .fltProc => 0x30#8
  | .combProc => 0x40#8
  | .cbProc => 0x41#8
  | .apProc => 0x50#8
  | .apcProc => 0x51#8
  | .fdnProc => 0x60#8

/-- The command of an opcode value; none for the unassigned values (R146, R149; notes/assumptions/18.md). -/
def opcodeOf (op : BitVec 8) : Option Opcode :=
  match op.toNat with
  | 0x00 => some .endProg
  | 0x01 => some .nop
  | 0x02 => some .wreg
  | 0x03 => some .rreg
  | 0x04 => some .init
  | 0x05 => some .pload
  | 0x06 => some .frame
  | 0x10 => some .mov
  | 0x11 => some .add
  | 0x12 => some .sub
  | 0x13 => some .mul
  | 0x14 => some .ldk
  | 0x15 => some .inp
  | 0x16 => some .out
  | 0x20 => some .dlRd
  | 0x21 => some .dlRdo
  | 0x22 => some .dlWr
  | 0x23 => some .dlProc
  | 0x30 => some .fltProc
  | 0x40 => some .combProc
  | 0x41 => some .cbProc
  | 0x50 => some .apProc
  | 0x51 => some .apcProc
  | 0x60 => some .fdnProc
  | _ => none

/-- The mask column of R146: 1 where a header bit is fixed. -/
def Opcode.mask : Opcode → Word
  | .endProg | .nop | .init | .frame => 0xFFFFFFFF#32
  | .wreg | .rreg | .pload => 0xFFFF0000#32
  | .mov | .inp => 0xFF00FFFF#32
  | .add | .sub | .mul => 0xFF000FFF#32
  | .ldk => 0xFF0FFFFF#32
  | .out => 0xFFF00FFF#32
  | .dlRd => 0xFF0FF000#32
  | .dlWr => 0xFFF0F000#32
  | .dlRdo | .dlProc | .fltProc | .combProc | .cbProc | .apProc | .apcProc => 0xFF00F000#32
  | .fdnProc => 0xFF000F00#32

/-- The match column of R146: the opcode value in bits [31:24], 0 elsewhere. -/
def Opcode.pattern (o : Opcode) : Word := o.bits ++ 0#24

/-- The number of data words after the header (R140). -/
def Opcode.dataWords : Opcode → Nat
  | .wreg | .pload | .ldk => 1
  | .frame => 2
  | _ => 0

/-- The commands legal in the host stream only, the "host" rows of R146 (spec/60_exceptions.md R410). -/
def Opcode.hostOnly : Opcode → Bool
  | .wreg | .rreg | .init | .pload | .frame => true
  | _ => false

/-! ### Header fields (spec/30_encoding.md R141) -/

/-- OP, bits [31:24]. -/
def opField (w : Word) : BitVec 8 := w.extractLsb' 24 8
/-- XA, bits [23:20]. -/
def xaField (w : Word) : XReg := (w.extractLsb' 20 4).toFin
/-- XB, bits [19:16]. -/
def xbField (w : Word) : XReg := (w.extractLsb' 16 4).toFin
/-- XC, bits [15:12]. -/
def xcField (w : Word) : XReg := (w.extractLsb' 12 4).toFin
/-- U, bits [11:0]. -/
def uField (w : Word) : BitVec 12 := w.extractLsb' 0 12
/-- ADDR, bits [15:0]. -/
def addrField (w : Word) : BitVec 16 := w.extractLsb' 0 16
/-- XE, bits [7:4] of format N. -/
def xeField (w : Word) : XReg := (w.extractLsb' 4 4).toFin
/-- XM, bits [3:0] of format N. -/
def xmField (w : Word) : XReg := (w.extractLsb' 0 4).toFin

/-- Length(w[31:24]): the words of a command by its header alone, 1 for an unassigned opcode
(spec/30_encoding.md R140, R149). -/
def commandLength (w : Word) : Nat :=
  match opcodeOf (opField w) with
  | none => 1
  | some o => 1 + o.dataWords

/-- The words of a command (spec/30_encoding.md R140). -/
def Instr.length (i : Instr) : Nat := 1 + i.opcode.dataWords

/-- Host-only commands (spec/30_encoding.md R146, column ctx). -/
def headerHostOnly (w : Word) : Bool :=
  match opcodeOf (opField w) with
  | none => false
  | some o => o.hostOnly

/-! ### The decoder -/

/-- Why a list of words gives no command. -/
inductive DecodeError where
  /-- the header or a data word has not arrived yet (spec/30_encoding.md R151) -/
  | needWords
  /-- the header's opcode is unassigned (spec/30_encoding.md R149) -/
  | illegalOpcode (w : Word)
  /-- an assigned opcode with a 1 in a reserved bit (spec/30_encoding.md R147) -/
  | reservedField (w : Word)
  deriving DecidableEq, Repr

/-- The command of opcode o with header w and the words after it (spec/30_encoding.md R145, R148). -/
def build (o : Opcode) (w : Word) (ws : List Word) : Instr :=
  match o with
  | .endProg => .endProg
  | .nop => .nop
  | .wreg => .wreg (addrField w) (ws.getD 0 0#32)
  | .rreg => .rreg (addrField w)
  | .init => .init
  | .pload => .pload (addrField w) (ws.getD 0 0#32)
  | .frame => .frame (ws.getD 0 0#32) (ws.getD 1 0#32)
  | .mov => .mov (xaField w) (xbField w)
  | .add => .add (xaField w) (xbField w) (xcField w)
  | .sub => .sub (xaField w) (xbField w) (xcField w)
  | .mul => .mul (xaField w) (xbField w) (xcField w)
  | .ldk => .ldk (xaField w) (ws.getD 0 0#32)
  | .inp => .inp (xaField w) (xbField w)
  | .out => .out (xbField w) (xcField w)
  | .dlRd => .dlRd (xaField w) (uField w)
  | .dlRdo => .dlRdo (xaField w) (xbField w) (uField w)
  | .dlWr => .dlWr (xbField w) (uField w)
  | .dlProc => .dlProc (xaField w) (xbField w) (uField w)
  | .fltProc => .fltProc (xaField w) (xbField w) (uField w)
  | .combProc => .combProc (xaField w) (xbField w) (uField w)
  | .cbProc => .cbProc (xaField w) (xbField w) (uField w)
  | .apProc => .apProc (xaField w) (xbField w) (uField w)
  | .apcProc => .apcProc (xaField w) (xbField w) (uField w)
  | .fdnProc => .fdnProc (xaField w) (xbField w) (xcField w) (xeField w) (xmField w)

/-- Decode the command at the front of a list of words; the answer holds the words after it. The data words must all be
there before the header is checked (spec/30_encoding.md R151); then ILLEGAL_OPCODE and RESERVED_FIELD are told apart by
the opcode, the mask and the match (R146, R147, R149). -/
def decode : List Word → Except DecodeError (Instr × List Word)
  | [] => .error .needWords
  | w :: ws =>
    match opcodeOf (opField w) with
    | none => .error (.illegalOpcode w)
    | some o =>
      if ws.length < o.dataWords then .error .needWords
      else if w &&& o.mask = o.pattern then .ok (build o w ws, ws.drop o.dataWords)
      else .error (.reservedField w)

/-! ### The encoder -/

/-- A header word from its opcode, its three register fields and its unit field (spec/30_encoding.md R141). -/
def headerOf (o : Opcode) (a b c : XReg) (u : BitVec 12) : Word :=
  BitVec.ofNat 32 (o.bits.toNat * 2 ^ 24 + a.val * 2 ^ 20 + b.val * 2 ^ 16 + c.val * 2 ^ 12 + u.toNat)

/-- A header word of the formats A and A2 (spec/30_encoding.md R141, R144). -/
def headerAddr (o : Opcode) (addr : BitVec 16) : Word := BitVec.ofNat 32 (o.bits.toNat * 2 ^ 24 + addr.toNat)

/-- The U field of format N: XE in U[7:4], XM in U[3:0], U[11:8] reserved (spec/30_encoding.md R141). -/
def unitOfN (e m : XReg) : BitVec 12 := BitVec.ofNat 12 (e.val * 2 ^ 4 + m.val)

/-- The header word of a command (spec/30_encoding.md R141, R145, R146); an error record holds it
(spec/60_exceptions.md R404). -/
def Instr.header : Instr → Word
  | .endProg => headerOf .endProg 0 0 0 0#12
  | .nop => headerOf .nop 0 0 0 0#12
  | .wreg a _ => headerAddr .wreg a
  | .rreg a => headerAddr .rreg a
  | .init => headerOf .init 0 0 0 0#12
  | .pload a _ => headerAddr .pload a
  | .frame _ _ => headerOf .frame 0 0 0 0#12
  | .mov a b => headerOf .mov a b 0 0#12
  | .add a b c => headerOf .add a b c 0#12
  | .sub a b c => headerOf .sub a b c 0#12
  | .mul a b c => headerOf .mul a b c 0#12
  | .ldk a _ => headerOf .ldk a 0 0 0#12
  | .inp a b => headerOf .inp a b 0 0#12
  | .out b c => headerOf .out 0 b c 0#12
  | .dlRd a u => headerOf .dlRd a 0 0 u
  | .dlRdo a b u => headerOf .dlRdo a b 0 u
  | .dlWr b u => headerOf .dlWr 0 b 0 u
  | .dlProc a b u => headerOf .dlProc a b 0 u
  | .fltProc a b u => headerOf .fltProc a b 0 u
  | .combProc a b u => headerOf .combProc a b 0 u
  | .cbProc a b u => headerOf .cbProc a b 0 u
  | .apProc a b u => headerOf .apProc a b 0 u
  | .apcProc a b u => headerOf .apcProc a b 0 u
  | .fdnProc a b c e m => headerOf .fdnProc a b c (unitOfN e m)

/-- The data words of a command, in order (spec/30_encoding.md R148). -/
def Instr.data : Instr → List Word
  | .wreg _ v => [v]
  | .pload _ p => [p]
  | .frame l r => [l, r]
  | .ldk _ k => [k]
  | _ => []

/-- The words of a command (spec/30_encoding.md R140). -/
def encode (i : Instr) : List Word := i.header :: i.data

/-! ### Words on a byte-wide medium, and the host's table reader -/

/-- A word from four transported bytes, least significant byte first (spec/20_memory.md R104). -/
def wordOfBytes (b0 b1 b2 b3 : BitVec 8) : Word := b3 ++ b2 ++ b1 ++ b0

/-- Word k of a row of spec/opcode_table.json whose bits are w: bit 0 of w is the least significant bit of the header,
and every bit at or above nbits is 0. -/
def tableWord (nbits w k : Nat) : Word := BitVec.ofNat 32 (w % 2 ^ nbits / 2 ^ (32 * k))

/-- The words of such a row, up to the longest command (3 words, spec/30_encoding.md R140). -/
def tableWords (nbits w : Nat) : List Word := [tableWord nbits w 0, tableWord nbits w 1, tableWord nbits w 2]

/-- The command the decoder reads from a row's bits; none where it refuses. -/
def decodeTableWord (nbits w : Nat) : Option Instr :=
  match decode (tableWords nbits w) with
  | .ok (i, _) => some i
  | .error _ => none

end Sys2Proof
end

