-- ==== Sys2Proof/Machine/Operands.lean ====
section
/-! DEFINITION. The operand forms: sample registers, the unit index, and the values a register write stores
(spec/30_encoding.md R142, R143, R148, spec/10_state.md R32, R37). -/

namespace Sys2Proof.Machine

open Sys2Proof

/-- Read a sample register (spec/10_state.md R32). -/
def getX (s : State) (r : XReg) : F32 := s.x[r]

/-- Write a value that is already finite to a sample register, bit for bit (spec/40_sequencer.md R189, R194). -/
def setX (r : XReg) (v : F32) (s : State) : State := { s with x := s.x.set r v }

/-- Write a result to a sample register through S (spec/10_state.md R32, spec/00_scope.md R10). -/
def setXS (r : XReg) (v : F32) (s : State) : State := setX r (F32.sanitise v) s

/-- The unit a unit field names; none at or beyond the count (spec/30_encoding.md R143). -/
def unitOf (n : Nat) (u : BitVec 12) : Option (Fin n) :=
  if h : u.toNat < n then some ⟨u.toNat, h⟩ else none

/-- The PMEM word PLOAD's ADDR names; none at or beyond PMEM_DEPTH (spec/30_encoding.md R144, spec/40_sequencer.md
R184). -/
def pmemIndexOf (a : BitVec 16) : Option (Fin 256) :=
  if h : a.toNat < 256 then some ⟨a.toNat, h⟩ else none

/-- The value a write of v to a register with a range stores, and whether it sets CLAMP (spec/00_scope.md R11,
spec/10_state.md R37). -/
def rangeWrite (v lo hi : F32) : F32 × Bool :=
  (F32.clampR v lo hi, F32.isNaN v || F32.clampR v lo hi != v)

/-- The value a write of v to a register with no range stores, and whether it sets CLAMP (spec/00_scope.md R10,
spec/10_state.md R37). -/
def finiteWrite (v : F32) : F32 × Bool := (F32.sanitise v, F32.isNaN v || F32.sanitise v != v)

end Sys2Proof.Machine
end

