-- ==== Sys2Proof/Machine/Ops.lean ====
section
/-! DEFINITION. The named operations over delay lines, filters and derived registers, the response queue, and the one
operation by which a command fails (spec/60_exceptions.md R403, R404). FOXCORE has no trap entry and no trap return
(R407): recording an error is all that an exception does. -/

namespace Sys2Proof.Machine

open Sys2Proof

/-! ### Failing: the error record (spec/60_exceptions.md R404) -/

/-- The value ERRPC takes: the PC of the header, or 0xFFFFFFFF from the host stream (R404). -/
def errPcOf (s : State) : Word :=
  match s.pc with
  | none => 0xFFFFFFFF#32
  | some p => BitVec.ofNat 32 p

/-- Record an error with cause k and header word w: the first error since ERR was last 0 is kept, ERR becomes 1
(R404). Everything else is unchanged (R403). -/
def recordError (k : Cause) (w : Word) (s : State) : State :=
  if s.err then s
  else { s with err := true, cause := some k, errWord := w, errPc := errPcOf s }

/-- raise CmdError(k) in command i (spec/00_scope.md R14, spec/60_exceptions.md R403). -/
def raiseError (k : Cause) (i : Instr) (s : State) : State := recordError k i.header s

/-- A host-only command: CONTEXT in a frame program, its effect t in the host stream (spec/60_exceptions.md R401
check 2, R410). -/
def hostOnly (i : Instr) (s t : State) : State :=
  match s.pc with
  | none => t
  | some _ => raiseError .context i s

/-! ### The response queue (spec/30_encoding.md R152) -/

/-- emit(w): append a word to the response stream (R152). -/
def emit (w : Word) (s : State) : State := { s with rsp := s.rsp ++ [w] }

/-- The words of a list past its first n. -/
def beyond : List Word → Nat → List Word
  | [], _ => []
  | w :: ws, 0 => w :: ws
  | _ :: ws, n + 1 => beyond ws n

/-- The emitted words that do not fit in the response queue yet (R152; notes/assumptions/6.md). -/
def heldWords (s : State) : List Word := beyond s.rsp Config.rspDepth

/-- The sequencer is stalled at an emit: it takes no command until the host has taken enough words (R152). -/
def stalled (s : State) : Bool := !(heldWords s).isEmpty

/-- The IRQ level is re-evaluated (spec/60_exceptions.md R406). -/
def updateIrq (s : State) : State := { s with irq := irqLevel s }

/-- After a command of the host stream is complete the IRQ level is re-evaluated (spec/60_exceptions.md R406); a command
that is stalled at an emit is not complete (notes/assumptions/6.md). -/
def settle (s : State) : State := if stalled s then s else updateIrq s

/-! ### Outcomes in sequence -/

/-- Go on with f from the next state; a stop stays a stop. -/
def andThen (o : Host.Outcome State Fault Refusal) (f : State → Host.Outcome State Fault Refusal) :
    Host.Outcome State Fault Refusal :=
  match o with
  | .next t => f t
  | .fault r => .fault r
  | .refused r => .refused r

/-! ### Delay lines (spec/41_delay_line.md) -/

/-- clampD(l, D), the legal tap range (R233); silent. -/
def clampD (ln : Line) (d : F32) : F32 :=
  if F32.isNaN d || F32.lt d F32.one then F32.one
  else if F32.lt (F32.ofNat (ln.cap - 1)) d then F32.ofNat (ln.cap - 1)
  else d

/-- MemRead at index (W - i) mod CAP, the remainder non-negative (R231, spec/00_scope.md R14). -/
def wordAgo (ln : Line) (i : Nat) : F32 :=
  memRead ln.buf (((ln.wptr : Int) - (i : Int)) % (ln.cap : Int)).toNat

/-- DlRead(l, D), a tap with linear interpolation (R231). -/
def dlRead (ln : Line) (d : F32) : F32 :=
  let d' := clampD ln d
  let i := F32.floorNat d'
  let f := F32.sub d' (F32.ofNat i)
  let a := wordAgo ln i
  if F32.isZero f then a
  else F32.sanitise (F32.add a (F32.mul f (F32.sub (wordAgo ln (i + 1)) a)))

/-- DlWrite(l, v): store S(v) at the cursor and advance it (R232). -/
def dlWrite (ln : Line) (v : F32) : Line :=
  { ln with buf := memWrite ln.buf ln.wptr (F32.sanitise v), wptr := (ln.wptr + 1) % ln.cap }

/-- Replace a delay line. -/
def setLine (l : Fin 44) (ln : Line) (s : State) : State := { s with lines := s.lines.set l ln }

/-! ### Filters (spec/42_filters.md) -/

/-- The output of FltStep(f, x): S(b0*x + s1) (R270). -/
def fltOut (f : Filter) (x : F32) : F32 := F32.sanitise (F32.add (F32.mul f.co.b0 x) f.s1)

/-- The filter after FltStep(f, x): only its two state words change (R270). -/
def fltNext (f : Filter) (x : F32) : Filter :=
  let y := fltOut f x
  { f with
    s1 := F32.sanitise (F32.add (F32.sub (F32.mul f.co.b1 x) (F32.mul f.co.a1 y)) f.s2)
    s2 := F32.sanitise (F32.sub (F32.mul f.co.b2 x) (F32.mul f.co.a2 y)) }

/-- Replace a filter. -/
def setFilter (f : Fin 32) (fl : Filter) (s : State) : State := { s with filters := s.filters.set f fl }

/-! ### Recomputing derived registers (spec/10_state.md R31). Each operation takes the set of units it recomputes; the
units are independent, so the ascending order the rules name gives the same result. -/

/-- INIT step (1) for one line: CAPCALC, every word +0.0, cursor 0 (spec/40_sequencer.md R183). -/
def reallocLine (fs : F32) (l : Fin 44) (ln : Line) : Line :=
  { ln with cap := (capCalc fs l ln.maxMs).1, wptr := 0, buf := [] }

/-- INIT step (1) (spec/40_sequencer.md R183). -/
def realloc (s : State) : State :=
  { s with
    lines := Vector.ofFn fun l => reallocLine s.fs l s.lines[l]
    clamp := s.clamp || (List.finRange 44).any fun l => (capCalc s.fs l s.lines[l].maxMs).2 }

/-- LENCALC(l) of a line of the state (spec/10_state.md R50). -/
def lenOf (s : State) (l : Fin 44) : F32 × Bool :=
  lenCalc s.fs s.fdn.room l s.lines[l].lenMs s.lines[l].cap

/-- LENCALC of the selected lines (spec/10_state.md R50). -/
def recalcLens (sel : Fin 44 → Bool) (s : State) : State :=
  { s with
    lines := Vector.ofFn fun l => if sel l then { s.lines[l] with len := (lenOf s l).1 } else s.lines[l]
    clamp := s.clamp || (List.finRange 44).any fun l => sel l && (lenOf s l).2 }

/-- COEFCALC of the selected filters (spec/42_filters.md R261). -/
def recalcCoefs (sel : Fin 32 → Bool) (s : State) : State :=
  { s with
    filters := Vector.ofFn fun f =>
      if sel f then { s.filters[f] with co := (coefCalc s.fs s.filters[f]).1 } else s.filters[f]
    clamp := s.clamp || (List.finRange 32).any fun f => sel f && (coefCalc s.fs s.filters[f]).2 }

/-- INIT step (3), second half: every filter state +0.0 (spec/40_sequencer.md R183). -/
def clearFilters (s : State) : State :=
  { s with filters := Vector.ofFn fun f => { s.filters[f] with s1 := F32.zero, s2 := F32.zero } }

/-- CBGAIN(c) of a comb unit of the state (spec/43_comb.md R302). -/
def combGainOf (s : State) (c : Fin 16) : F32 × Bool :=
  combGain s.fs s.lines[cbl c].len s.banks[bankOf c] (posOf c)

/-- CBGAIN of the selected comb units (spec/43_comb.md R302). -/
def recalcCombs (sel : Fin 16 → Bool) (s : State) : State :=
  { s with
    combs := Vector.ofFn fun c => if sel c then { s.combs[c] with fb := (combGainOf s c).1 } else s.combs[c]
    clamp := s.clamp || (List.finRange 16).any fun c => sel c && (combGainOf s c).2 }

/-- FDNGAIN(i) of an FDN line of the state (spec/45_fdn.md R362). -/
def fdnGainOf (s : State) (i : Fin 8) : F32 × Bool := decayMag s.fs s.lines[fdl i].len s.fdn.decay

/-- FDNGAIN of the selected FDN lines (spec/45_fdn.md R362). -/
def recalcFdnGains (sel : Fin 8 → Bool) (s : State) : State :=
  { s with
    fdn := { s.fdn with g := Vector.ofFn fun i => if sel i then (fdnGainOf s i).1 else s.fdn.g[i] }
    clamp := s.clamp || (List.finRange 8).any fun i => sel i && (fdnGainOf s i).2 }

/-- MODCALC (spec/45_fdn.md R363). -/
def recalcMods (s : State) : State := { s with fdn := { s.fdn with mods := modCalc s.fs s.fdn.modDepth } }

/-- The INIT procedure, steps (1) to (6) in order (spec/40_sequencer.md R183). -/
def initProc (s : State) : State :=
  recalcMods (recalcFdnGains (fun _ => true) (recalcCombs (fun _ => true)
    (clearFilters (recalcCoefs (fun _ => true) (recalcLens (fun _ => true) (realloc s))))))

end Sys2Proof.Machine
end

