-- ==== Sys2Proof/Machine/AllPass.lean ====
section
/-! DEFINITION. The all-pass stage and the commands AP.PROC and APC.PROC (spec/44_allpass.md R330 to R335). -/

namespace Sys2Proof.Machine

open Sys2Proof

/-- The delayed sample a stage reads, before it writes (R331, R332). -/
def apTap (s : State) (a : Fin 16) : F32 := dlRead s.lines[apl a] s.lines[apl a].len

/-- y = S(d - g*x), the output of a stage in both modes (R330 to R332). -/
def apOut (s : State) (a : Fin 16) (x : F32) : F32 :=
  F32.sanitise (F32.sub (apTap s a) (F32.mul s.chains[chainOf a].g x))

/-- The value a stage writes to its line: x + g*y in CANONICAL mode (R331), x + g*d in LITERAL mode (R332). -/
def apFeed (s : State) (a : Fin 16) (x : F32) : F32 :=
  match s.chains[chainOf a].mode with
  | .canonical => F32.add x (F32.mul s.chains[chainOf a].g (apOut s a x))
  | .literal => F32.add x (F32.mul s.chains[chainOf a].g (apTap s a))

/-- The state after APStep(a, x) (R331, R332). -/
def apStep (a : Fin 16) (x : F32) (s : State) : State :=
  setLine (apl a) (dlWrite s.lines[apl a] (apFeed s a x)) s

/-- The stages of a list of positions of chain ch, run serially: each output is the next stage's input (R335). -/
def chainRun (ch : Fin 4) : List (Fin 4) → F32 → State → F32 × State
  | [], v, s => (v, s)
  | k :: ks, v, s => chainRun ch ks (apOut s (stageOf ch k) v) (apStep (stageOf ch k) v s)

/-- AP.PROC (R334). -/
def execApProc (xa xb : XReg) (u : BitVec 12) (s : State) : Host.Outcome State Fault Refusal :=
  .next (match unitOf 16 u with
    | none => raiseError .unitRange (.apProc xa xb u) s
    | some a => setX xa (apOut s a (getX s xb)) (apStep a (getX s xb) s))

/-- APC.PROC (R335). -/
def execApcProc (xa xb : XReg) (u : BitVec 12) (s : State) : Host.Outcome State Fault Refusal :=
  .next (match unitOf 4 u with
    | none => raiseError .unitRange (.apcProc xa xb u) s
    | some ch =>
      setX xa (chainRun ch [0, 1, 2, 3] (getX s xb) s).1 (chainRun ch [0, 1, 2, 3] (getX s xb) s).2)

end Sys2Proof.Machine
end

