-- ==== Sys2Proof/Machine/CombBank.lean ====
section
/-! DEFINITION. The comb step and the commands COMB.PROC and CB.PROC (spec/43_comb.md R304 to R306). -/

namespace Sys2Proof.Machine

open Sys2Proof

/-- The delayed sample a comb unit reads, before it writes (R304). -/
def combTap (s : State) (c : Fin 16) : F32 := dlRead s.lines[cbl c] s.lines[cbl c].len

/-- y, the damped delayed sample of a comb unit (R304). -/
def combDamped (s : State) (c : Fin 16) : F32 := fltOut s.filters[cbf c] (combTap s c)

/-- The value CombStep returns: S(y*CB_MK) (R304). -/
def combOut (s : State) (c : Fin 16) : F32 := F32.sanitise (F32.mul (combDamped s c) s.combs[c].makeup)

/-- The unit's line after CombStep with input x: the circulating word is multiplied by CB_FB once on every pass
(R304, R303). -/
def combLine (s : State) (c : Fin 16) (x : F32) : Line :=
  dlWrite s.lines[cbl c] (F32.add x (F32.mul (combDamped s c) s.combs[c].fb))

/-- The unit's damping filter after CombStep (R304). -/
def combFilter (s : State) (c : Fin 16) : Filter := fltNext s.filters[cbf c] (combTap s c)

/-- The state after CombStep(c, x) (R304). -/
def combStep (c : Fin 16) (x : F32) (s : State) : State :=
  setFilter (cbf c) (combFilter s c) (setLine (cbl c) (combLine s c x) s)

/-- A left-to-right binary32 sum of eight terms, ascending (R306, spec/45_fdn.md R364). -/
def sum8 (o : Fin 8 → F32) : F32 :=
  F32.add (F32.add (F32.add (F32.add (F32.add (F32.add (F32.add (o 0) (o 1)) (o 2)) (o 3)) (o 4)) (o 5)) (o 6)) (o 7)

/-- The state after stepping every unit of bank b with one input, in ascending k (R306). -/
def bankStep (b : Fin 2) (v : F32) (s : State) : State :=
  (List.finRange 8).foldl (fun t k => combStep (combOf b k) v t) s

/-- COMB.PROC (R305). -/
def execCombProc (xa xb : XReg) (u : BitVec 12) (s : State) : Host.Outcome State Fault Refusal :=
  .next (match unitOf 16 u with
    | none => raiseError .unitRange (.combProc xa xb u) s
    | some c => setX xa (combOut s c) (combStep c (getX s xb) s))

/-- CB.PROC (R306). The units own different lines and filters, so each output is the one its unit gives in the state
before the command. -/
def execCbProc (xa xb : XReg) (u : BitVec 12) (s : State) : Host.Outcome State Fault Refusal :=
  .next (match unitOf 2 u with
    | none => raiseError .unitRange (.cbProc xa xb u) s
    | some b => setXS xa (sum8 fun k => combOut s (combOf b k)) (bankStep b (getX s xb) s))

end Sys2Proof.Machine
end

