-- ==== Sys2Proof/Machine/DelayLine.lean ====
section
/-! DEFINITION. The delay-line commands DL.RD, DL.RDO, DL.WR and DL.PROC (spec/41_delay_line.md R234 to R238). Any line
may be named, whichever unit owns it (R238). -/

namespace Sys2Proof.Machine

open Sys2Proof

/-- DL.RD (R234): the tap at the nominal delay. -/
def execDlRd (xa : XReg) (u : BitVec 12) (s : State) : Host.Outcome State Fault Refusal :=
  .next (match unitOf 44 u with
    | none => raiseError .unitRange (.dlRd xa u) s
    | some l => setX xa (dlRead s.lines[l] s.lines[l].len) s)

/-- DL.RDO (R235): the tap at the nominal delay plus the offset in XB. -/
def execDlRdo (xa xb : XReg) (u : BitVec 12) (s : State) : Host.Outcome State Fault Refusal :=
  .next (match unitOf 44 u with
    | none => raiseError .unitRange (.dlRdo xa xb u) s
    | some l => setX xa (dlRead s.lines[l] (F32.add s.lines[l].len (getX s xb))) s)

/-- DL.WR (R236). -/
def execDlWr (xb : XReg) (u : BitVec 12) (s : State) : Host.Outcome State Fault Refusal :=
  .next (match unitOf 44 u with
    | none => raiseError .unitRange (.dlWr xb u) s
    | some l => setLine l (dlWrite s.lines[l] (getX s xb)) s)

/-- DL.PROC (R237): the tap is read before the write. -/
def execDlProc (xa xb : XReg) (u : BitVec 12) (s : State) : Host.Outcome State Fault Refusal :=
  .next (match unitOf 44 u with
    | none => raiseError .unitRange (.dlProc xa xb u) s
    | some l =>
      setX xa (dlRead s.lines[l] s.lines[l].len) (setLine l (dlWrite s.lines[l] (getX s xb)) s))

end Sys2Proof.Machine
end

