-- ==== Sys2Proof/Machine/FdnNet.lean ====
section
/-! DEFINITION. The feedback delay network and FDN.PROC (spec/45_fdn.md R364 to R366). All 2N taps are read from the
state before the command; the damping filters and the lines of the N units are distinct, so the ascending orders of R366
give the values below. -/

namespace Sys2Proof.Machine

open Sys2Proof

/-- The modulation value clamped to [-1, 1], silently (R366). -/
def clampMod (m : F32) : F32 :=
  let m' := if F32.lt m F32.negOne then F32.negOne else m
  if F32.lt F32.one m' then F32.one else m'

/-- mm, the modulation excursion of this frame in samples (R366). -/
def fdnExcursion (s : State) (m : F32) : F32 := F32.mul (clampMod m) s.fdn.mods

/-- q = 1 - FDN_SPREAD*0.5, the fraction of its delay at which a line's right tap is read (R366). -/
def fdnRightFraction (s : State) : F32 := F32.sub F32.one (F32.mul s.fdn.spread F32.half)

/-- D[i]: the excursion lengthens even lines and shortens odd ones (R366). -/
def fdnDelay (s : State) (m : F32) (i : Fin 8) : F32 :=
  if i.val % 2 = 0 then clampD s.lines[fdl i] (F32.add s.lines[fdl i].len (fdnExcursion s m))
  else clampD s.lines[fdl i] (F32.sub s.lines[fdl i].len (fdnExcursion s m))

/-- r[i], the left tap of line i (R366 step (1)). -/
def fdnLeftTap (s : State) (m : F32) (i : Fin 8) : F32 := dlRead s.lines[fdl i] (fdnDelay s m i)

/-- t[i], the right tap of line i (R366 step (1)). -/
def fdnRightTap (s : State) (m : F32) (i : Fin 8) : F32 :=
  dlRead s.lines[fdl i] (F32.mul (fdnDelay s m i) (fdnRightFraction s))

/-- u[i] = FDN_G[i] * FltStep(FDF(i), r[i]) (R366 step (2)). -/
def fdnGained (s : State) (m : F32) (i : Fin 8) : F32 :=
  F32.mul s.fdn.g[i] (fltOut s.filters[fdf i] (fdnLeftTap s m i))

/-- h = (2/N) * sum of u, the sum formed first (R364). -/
def householderShare (u : Fin 8 → F32) : F32 := F32.mul (sum8 u) F32.quarter

/-- v[i] = u[i] - h, the Householder reflection (R364, R366 step (3)). -/
def householder (u : Fin 8 → F32) (i : Fin 8) : F32 := F32.sub (u i) (householderShare u)

/-- The value written into line i: v[i] plus the left input on even lines, the right input on odd ones
(R366 steps (4) and (5)). -/
def fdnInject (s : State) (xL xR m : F32) (i : Fin 8) : F32 :=
  F32.add (householder (fdnGained s m) i) (if i.val % 2 = 0 then xL else xR)

/-- oL of the mix modes (R365). -/
def mixLeft (mode : MixMode) (r : Fin 8 → F32) : F32 :=
  match mode with
  | .first => r 0
  | .split => F32.mul F32.quarter (F32.add (F32.add (F32.add (r 0) (r 2)) (r 4)) (r 6))
  | .all => F32.mul F32.eighth (sum8 r)

/-- The sum of ALL's right output: t[i] is added for even i and subtracted for odd i (R365). -/
def alternatingSum8 (t : Fin 8 → F32) : F32 :=
  F32.sub (F32.add (F32.sub (F32.add (F32.sub (F32.add (F32.sub (t 0) (t 1)) (t 2)) (t 3)) (t 4)) (t 5)) (t 6)) (t 7)

/-- oR of the mix modes (R365). -/
def mixRight (mode : MixMode) (t : Fin 8 → F32) : F32 :=
  match mode with
  | .first => t 1
  | .split => F32.mul F32.quarter (F32.add (F32.add (F32.add (t 1) (t 3)) (t 5)) (t 7))
  | .all => F32.mul F32.eighth (alternatingSum8 t)

/-- The lines and filters after FDN.PROC (R366 steps (2) and (5)). -/
def fdnStep (xL xR m : F32) (s : State) : State :=
  { s with
    lines := Vector.ofFn fun l =>
      match lineOwner l with
      | .fdn i => dlWrite s.lines[l] (fdnInject s xL xR m i)
      | _ => s.lines[l]
    filters := Vector.ofFn fun f =>
      match filterOwner f with
      | .fdn i => fltNext s.filters[f] (fdnLeftTap s m i)
      | _ => s.filters[f] }

/-- FDN.PROC (R366): the outputs are the undamped taps; when XA and XE are one register, the right output stays. -/
def execFdnProc (xa xb xc xe xm : XReg) (s : State) : Host.Outcome State Fault Refusal :=
  .next (setXS xe (mixRight s.fdn.mixMode (fdnRightTap s (getX s xm)))
    (setXS xa (mixLeft s.fdn.mixMode (fdnLeftTap s (getX s xm)))
      (fdnStep (getX s xb) (getX s xc) (getX s xm) s)))

end Sys2Proof.Machine
end

