-- ==== Sys2Proof/Machine/FilterBank.lean ====
section
/-! DEFINITION. FLT.PROC (spec/42_filters.md R272). -/

namespace Sys2Proof.Machine

open Sys2Proof

/-- FLT.PROC (R272): one step of filter f. -/
def execFltProc (xa xb : XReg) (u : BitVec 12) (s : State) : Host.Outcome State Fault Refusal :=
  .next (match unitOf 32 u with
    | none => raiseError .unitRange (.fltProc xa xb u) s
    | some f =>
      setX xa (fltOut s.filters[f] (getX s xb)) (setFilter f (fltNext s.filters[f] (getX s xb)) s))

end Sys2Proof.Machine
end

