-- ==== Sys2Proof/Machine/Registers.lean ====
section
/-! DEFINITION. Reading a register, and the write rule of every register that a WREG may write
(spec/10_state.md R35 to R78). -/

namespace Sys2Proof.Machine

open Sys2Proof

/-- N_DL | N_BANK<<8 | N_COMB<<16 | N_FDN<<24 (spec/10_state.md R36). -/
def config0 : Word :=
  BitVec.ofNat 32 (Config.nDl + Config.nBank * 2 ^ 8 + Config.nComb * 2 ^ 16 + Config.nFdn * 2 ^ 24)
/-- N_CHAIN | N_STAGE<<8 | N_FLT<<16 | NX<<24 (spec/10_state.md R36). -/
def config1 : Word :=
  BitVec.ofNat 32 (Config.nChain + Config.nStage * 2 ^ 8 + Config.nFlt * 2 ^ 16 + Config.nX * 2 ^ 24)
/-- PMEM_DEPTH (spec/10_state.md R36). -/
def config2 : Word := BitVec.ofNat 32 Config.pmemDepth

/-- The value RREG returns (spec/10_state.md R35, R36 to R78; no read has a side effect). -/
def readReg (r : Reg) (s : State) : Word :=
  match r with
  | .id => 0x464F5843#32
  | .version => 0x00000007#32
  | .status => statusWord s
  | .cause => match s.cause with
    | none => 0#32
    | some k => causeCode k
  | .errWord => s.errWord
  | .errPc => s.errPc
  | .ctrl => ctrlWord s
  | .fs => s.fs
  | .frameCnt => s.frameCnt
  | .config0 => config0
  | .config1 => config1
  | .config2 => config2
  | .finL => s.finL
  | .finR => s.finR
  | .foutL => s.foutL
  | .foutR => s.foutR
  | .x i => s.x[i]
  | .pmem i => s.pmem[i]
  | .dlMaxMs l => s.lines[l].maxMs
  | .dlLenMs l => s.lines[l].lenMs
  | .dlCap l => BitVec.ofNat 32 s.lines[l].cap
  | .dlLen l => s.lines[l].len
  | .dlWptr l => BitVec.ofNat 32 s.lines[l].wptr
  | .fltKind f => kindCode s.filters[f].kind
  | .fltFc f => s.filters[f].fc
  | .fltP f => s.filters[f].p
  | .fltB0 f => s.filters[f].co.b0
  | .fltB1 f => s.filters[f].co.b1
  | .fltB2 f => s.filters[f].co.b2
  | .fltA1 f => s.filters[f].co.a1
  | .fltA2 f => s.filters[f].co.a2
  | .fltS1 f => s.filters[f].s1
  | .fltS2 f => s.filters[f].s2
  | .cbFb c => s.combs[c].fb
  | .cbMk c => s.combs[c].makeup
  | .cbDecay b => s.banks[b].decay
  | .cbSignMode b => signModeCode s.banks[b].signMode
  | .cbDampKind b => kindCode s.banks[b].dampKind
  | .cbDampFc b => s.banks[b].dampFc
  | .apG ch => s.chains[ch].g
  | .apMode ch => apModeCode s.chains[ch].mode
  | .fdnRoom => s.fdn.room
  | .fdnRoomSel => s.fdn.roomSel.setWidth 32
  | .fdnDecay => s.fdn.decay
  | .fdnSpread => s.fdn.spread
  | .fdnMixMode => mixModeCode s.fdn.mixMode
  | .fdnModDepth => s.fdn.modDepth
  | .fdnDampKind => kindCode s.fdn.dampKind
  | .fdnDampFc => s.fdn.dampFc
  | .fdnMods => s.fdn.mods
  | .fdnG i => s.fdn.g[i]

/-! ### Sets of units a write recomputes -/

/-- The comb unit that owns line l is recomputed by a write to DL_LENMS[l] (spec/10_state.md R49). -/
def combOfLine (l : Fin 44) (c : Fin 16) : Bool := decide (cbl c = l)
/-- The FDN line that owns line l (spec/10_state.md R49). -/
def fdnOfLine (l : Fin 44) (i : Fin 8) : Bool := decide (fdl i = l)
/-- The units of bank b (spec/10_state.md R63, R64). -/
def combInBank (b : Fin 2) (c : Fin 16) : Bool := decide (bankOf c = b)
/-- The damping filters of bank b (spec/10_state.md R65, R66). -/
def dampOfBank (b : Fin 2) (f : Fin 32) : Bool :=
  match filterOwner f with
  | .comb c => decide (bankOf c = b)
  | .standalone _ => false
  | .fdn _ => false
/-- The damping filters of the FDN (spec/10_state.md R77, R78). -/
def dampOfFdn (f : Fin 32) : Bool :=
  match filterOwner f with
  | .fdn _ => true
  | .standalone _ => false
  | .comb _ => false
/-- The lines of the FDN (spec/10_state.md R71). -/
def lineOfFdn (l : Fin 44) : Bool :=
  match lineOwner l with
  | .fdn _ => true
  | .standalone _ => false
  | .comb _ => false
  | .allpass _ => false

/-! ### Write rules -/

/-- Set the kind of the selected filters and recompute their coefficients; FLT_S1 and FLT_S2 are unchanged
(spec/10_state.md R55, R65, R77). -/
def setKinds (sel : Fin 32 → Bool) (k : FilterKind) (s : State) : State :=
  recalcCoefs sel
    { s with filters := Vector.ofFn fun f => if sel f then { s.filters[f] with kind := k } else s.filters[f] }

/-- Set the cutoff of the selected filters and recompute their coefficients (spec/10_state.md R56, R66, R78). -/
def setCutoffs (sel : Fin 32 → Bool) (fc : F32) (s : State) : State :=
  recalcCoefs sel
    { s with filters := Vector.ofFn fun f => if sel f then { s.filters[f] with fc := fc } else s.filters[f] }

/-- Store one coefficient and make the filter RAW (spec/10_state.md R58). -/
def setCoef (f : Fin 32) (upd : F32 → Coefs → Coefs) (v : Word) (s : State) : State :=
  orClamp (finiteWrite v).2
    (setFilter f { s.filters[f] with co := upd (finiteWrite v).1 s.filters[f].co, kind := .raw } s)

/-- WREG to FS: store the clamped rate, then INIT at the new rate (spec/10_state.md R41). -/
def writeFs (v : Word) (s : State) : State :=
  let w := rangeWrite v F32.c8000 F32.c192000
  initProc (orClamp w.2 { s with fs := w.1 })

/-- WREG to DL_MAXMS[l]: no effect until the next INIT (spec/10_state.md R48). -/
def writeMaxMs (l : Fin 44) (v : Word) (s : State) : State :=
  let w := rangeWrite v F32.zero F32.c100000
  orClamp w.2 (setLine l { s.lines[l] with maxMs := w.1 } s)

/-- WREG to DL_LENMS[l]: LENCALC(l), then the gain of the comb unit or FDN line that owns l (spec/10_state.md R49). -/
def writeLenMs (l : Fin 44) (v : Word) (s : State) : State :=
  let w := rangeWrite v F32.zero F32.c100000
  recalcFdnGains (fdnOfLine l) (recalcCombs (combOfLine l)
    (recalcLens (fun k => decide (k = l)) (orClamp w.2 (setLine l { s.lines[l] with lenMs := w.1 } s))))

/-- WREG to FLT_KIND[f] (spec/10_state.md R55). -/
def writeKind (f : Fin 32) (v : Word) (s : State) : State :=
  match kindOf v with
  | none => s
  | some k => setKinds (fun g => decide (g = f)) k s

/-- WREG to FLT_FC[f] (spec/10_state.md R56). -/
def writeFc (f : Fin 32) (v : Word) (s : State) : State :=
  let w := rangeWrite v F32.c20 F32.c20000
  setCutoffs (fun g => decide (g = f)) w.1 (orClamp w.2 s)

/-- WREG to FLT_P[f] (spec/10_state.md R57). -/
def writeP (f : Fin 32) (v : Word) (s : State) : State :=
  let w := rangeWrite v F32.zero F32.one
  recalcCoefs (fun g => decide (g = f)) (orClamp w.2 (setFilter f { s.filters[f] with p := w.1 } s))

/-- WREG to CB_FB[c] (spec/10_state.md R61). -/
def writeFb (c : Fin 16) (v : Word) (s : State) : State :=
  let w := rangeWrite v F32.negGmax F32.gmax
  orClamp w.2 { s with combs := s.combs.set c { s.combs[c] with fb := w.1 } }

/-- WREG to CB_MK[c] (spec/10_state.md R62). -/
def writeMk (c : Fin 16) (v : Word) (s : State) : State :=
  let w := finiteWrite v
  orClamp w.2 { s with combs := s.combs.set c { s.combs[c] with makeup := w.1 } }

/-- Replace a comb bank's registers. -/
def setBank (b : Fin 2) (bk : Bank) (s : State) : State := { s with banks := s.banks.set b bk }

/-- WREG to CB_DECAY[b] (spec/10_state.md R63). -/
def writeDecay (b : Fin 2) (v : Word) (s : State) : State :=
  let w := rangeWrite v F32.c0_01 F32.c1000
  recalcCombs (combInBank b) (orClamp w.2 (setBank b { s.banks[b] with decay := w.1 } s))

/-- WREG to CB_SIGNMODE[b] (spec/10_state.md R64). -/
def writeSignMode (b : Fin 2) (v : Word) (s : State) : State :=
  match signModeOf v with
  | none => s
  | some m => recalcCombs (combInBank b) (setBank b { s.banks[b] with signMode := m } s)

/-- WREG to CB_DAMPKIND[b]: broadcast to the bank's damping filters (spec/10_state.md R65). -/
def writeBankKind (b : Fin 2) (v : Word) (s : State) : State :=
  match kindOf v with
  | none => s
  | some k => setKinds (dampOfBank b) k (setBank b { s.banks[b] with dampKind := k } s)

/-- WREG to CB_DAMPFC[b]: broadcast to the bank's damping filters (spec/10_state.md R66). -/
def writeBankFc (b : Fin 2) (v : Word) (s : State) : State :=
  let w := rangeWrite v F32.c20 F32.c20000
  setCutoffs (dampOfBank b) w.1 (orClamp w.2 (setBank b { s.banks[b] with dampFc := w.1 } s))

/-- WREG to AP_G[ch] (spec/10_state.md R67). -/
def writeApG (ch : Fin 4) (v : Word) (s : State) : State :=
  let w := rangeWrite v F32.negGmax F32.gmax
  orClamp w.2 { s with chains := s.chains.set ch { s.chains[ch] with g := w.1 } }

/-- WREG to AP_MODE[ch] (spec/10_state.md R68). -/
def writeApMode (ch : Fin 4) (v : Word) (s : State) : State :=
  match apModeOf v with
  | none => s
  | some m => { s with chains := s.chains.set ch { s.chains[ch] with mode := m } }

/-- WREG to FDN_ROOM: lengths and gains of every FDN line (spec/10_state.md R71). -/
def writeRoom (v : Word) (s : State) : State :=
  let w := rangeWrite v F32.zero F32.one
  recalcFdnGains (fun _ => true) (recalcLens lineOfFdn (orClamp w.2 { s with fdn := { s.fdn with room := w.1 } }))

/-- WREG to FDN_DECAY (spec/10_state.md R73). -/
def writeFdnDecay (v : Word) (s : State) : State :=
  let w := rangeWrite v F32.c0_01 F32.c1000
  recalcFdnGains (fun _ => true) (orClamp w.2 { s with fdn := { s.fdn with decay := w.1 } })

/-- WREG to FDN_SPREAD (spec/10_state.md R74). -/
def writeSpread (v : Word) (s : State) : State :=
  let w := rangeWrite v F32.zero F32.one
  orClamp w.2 { s with fdn := { s.fdn with spread := w.1 } }

/-- WREG to FDN_MIXMODE (spec/10_state.md R75). -/
def writeMixMode (v : Word) (s : State) : State :=
  match mixModeOf v with
  | none => s
  | some m => { s with fdn := { s.fdn with mixMode := m } }

/-- WREG to FDN_MODDEPTH (spec/10_state.md R76). -/
def writeModDepth (v : Word) (s : State) : State :=
  let w := rangeWrite v F32.zero F32.one
  recalcMods (orClamp w.2 { s with fdn := { s.fdn with modDepth := w.1 } })

/-- WREG to FDN_DAMPKIND: broadcast to the FDN's damping filters (spec/10_state.md R77). -/
def writeFdnKind (v : Word) (s : State) : State :=
  match kindOf v with
  | none => s
  | some k => setKinds dampOfFdn k { s with fdn := { s.fdn with dampKind := k } }

/-- WREG to FDN_DAMPFC: broadcast to the FDN's damping filters (spec/10_state.md R78). -/
def writeFdnFc (v : Word) (s : State) : State :=
  let w := rangeWrite v F32.c20 F32.c20000
  setCutoffs dampOfFdn w.1 (orClamp w.2 { s with fdn := { s.fdn with dampFc := w.1 } })

/-- WREG to a sample register (spec/10_state.md R43). -/
def writeX (i : Fin 16) (v : Word) (s : State) : State :=
  orClamp (finiteWrite v).2 (setX i (finiteWrite v).1 s)

/-- The write rule of a register for a value in its legal set (spec/10_state.md R37 to R78). A read-only register has no
write rule: WREG has failed before this (R35). -/
def writeReg (r : Reg) (v : Word) (s : State) : State :=
  match r with
  | .status => clearStatus v s
  | .ctrl => setCtrl v s
  | .fs => writeFs v s
  | .x i => writeX i v s
  | .dlMaxMs l => writeMaxMs l v s
  | .dlLenMs l => writeLenMs l v s
  | .fltKind f => writeKind f v s
  | .fltFc f => writeFc f v s
  | .fltP f => writeP f v s
  | .fltB0 f => setCoef f (fun w c => { c with b0 := w }) v s
  | .fltB1 f => setCoef f (fun w c => { c with b1 := w }) v s
  | .fltB2 f => setCoef f (fun w c => { c with b2 := w }) v s
  | .fltA1 f => setCoef f (fun w c => { c with a1 := w }) v s
  | .fltA2 f => setCoef f (fun w c => { c with a2 := w }) v s
  | .cbFb c => writeFb c v s
  | .cbMk c => writeMk c v s
  | .cbDecay b => writeDecay b v s
  | .cbSignMode b => writeSignMode b v s
  | .cbDampKind b => writeBankKind b v s
  | .cbDampFc b => writeBankFc b v s
  | .apG ch => writeApG ch v s
  | .apMode ch => writeApMode ch v s
  | .fdnRoom => writeRoom v s
  | .fdnRoomSel => { s with fdn := { s.fdn with roomSel := v.setWidth 6 } }
  | .fdnDecay => writeFdnDecay v s
  | .fdnSpread => writeSpread v s
  | .fdnMixMode => writeMixMode v s
  | .fdnModDepth => writeModDepth v s
  | .fdnDampKind => writeFdnKind v s
  | .fdnDampFc => writeFdnFc v s
  | .id | .version | .cause | .errWord | .errPc | .frameCnt | .config0 | .config1 | .config2 => s
  | .finL | .finR | .foutL | .foutR | .pmem _ | .dlCap _ | .dlLen _ | .dlWptr _ => s
  | .fltS1 _ | .fltS2 _ | .fdnMods | .fdnG _ => s

end Sys2Proof.Machine
end

