-- ==== Sys2Proof/Machine/Host.lean ====
section
/-! DEFINITION. The control commands END and NOP and the host commands WREG, RREG, INIT and PLOAD
(spec/40_sequencer.md R181 to R184, R187, R188); FRAME stands in Frame.lean. Each meaning is Execute of its command
(R180): the checks of spec/60_exceptions.md R401 that the decoder leaves, then the command's rule. Whether the context is
the host stream or a frame program is told by the PC (spec/10_state.md R33). -/

namespace Sys2Proof.Machine

open Sys2Proof

/-- END (R187): in a frame program it ends RunProgram, so the PC ceases to exist (spec/10_state.md R33); in the host
stream, where no PC exists, it has no effect. -/
def execEndProg (s : State) : Host.Outcome State Fault Refusal := .next { s with pc := none }

/-- NOP (R188): changes no state. -/
def execNop (s : State) : Host.Outcome State Fault Refusal := .next s

/-- WREG (R181): REG_ADDR, REG_RO and BAD_VALUE, then the write rule of the register. -/
def execWreg (a : BitVec 16) (v : Word) (s : State) : Host.Outcome State Fault Refusal :=
  .next (hostOnly (.wreg a v) s
    (match regOf a with
      | none => raiseError .regAddr (.wreg a v) s
      | some r =>
        if regAccess r = .ro then raiseError .regRo (.wreg a v) s
        else if regLegal r v then writeReg r v s
        else raiseError .badValue (.wreg a v) s))

/-- RREG (R182): emits one word; an unmapped address emits 0x00000000 and raises REG_ADDR. -/
def execRreg (a : BitVec 16) (s : State) : Host.Outcome State Fault Refusal :=
  .next (hostOnly (.rreg a) s
    (match regOf a with
      | none => raiseError .regAddr (.rreg a) (emit 0#32 s)
      | some r => emit (readReg r s) s))

/-- INIT (R183). -/
def execInit (s : State) : Host.Outcome State Fault Refusal := .next (hostOnly .init s (initProc s))

/-- PLOAD (R184): UNIT_RANGE, then the word is stored unchecked. -/
def execPload (a : BitVec 16) (p : Word) (s : State) : Host.Outcome State Fault Refusal :=
  .next (hostOnly (.pload a p) s
    (match pmemIndexOf a with
      | none => raiseError .unitRange (.pload a p) s
      | some i => { s with pmem := s.pmem.set i p }))

end Sys2Proof.Machine
end

