-- ==== Sys2Proof/Machine/Samples.lean ====
section
/-! DEFINITION. The sample-register commands MOV, ADD, SUB, MUL, LDK, IN and OUT (spec/40_sequencer.md R189 to R195).
Sources are read before any destination is written (spec/70_reset_and_hazards.md R456). No flag is written. -/

namespace Sys2Proof.Machine

open Sys2Proof

/-- MOV (R189): a bit-exact copy. -/
def execMov (xa xb : XReg) (s : State) : Host.Outcome State Fault Refusal := .next (setX xa (getX s xb) s)

/-- ADD (R190): S of one binary32 addition. -/
def execAdd (xa xb xc : XReg) (s : State) : Host.Outcome State Fault Refusal :=
  .next (setXS xa (F32.add (getX s xb) (getX s xc)) s)

/-- SUB (R191): S of one binary32 subtraction. -/
def execSub (xa xb xc : XReg) (s : State) : Host.Outcome State Fault Refusal :=
  .next (setXS xa (F32.sub (getX s xb) (getX s xc)) s)

/-- MUL (R192): S of one binary32 multiplication. -/
def execMul (xa xb xc : XReg) (s : State) : Host.Outcome State Fault Refusal :=
  .next (setXS xa (F32.mul (getX s xb) (getX s xc)) s)

/-- LDK (R193): S of the immediate; CLAMP is not set. -/
def execLdk (xa : XReg) (k : Word) (s : State) : Host.Outcome State Fault Refusal := .next (setXS xa k s)

/-- IN (R194): FIN_L then FIN_R; when both destinations are one register the second write wins. -/
def execInp (xa xb : XReg) (s : State) : Host.Outcome State Fault Refusal :=
  .next (setX xb s.finR (setX xa s.finL s))

/-- OUT (R195). -/
def execOut (xb xc : XReg) (s : State) : Host.Outcome State Fault Refusal :=
  .next { s with foutL := getX s xb, foutR := getX s xc }

end Sys2Proof.Machine
end

