-- ==== Sys2Proof/Machine/Frame.lean ====
section
/-! DEFINITION. The frame program run (spec/40_sequencer.md R186) and FRAME, which runs it whole: a FRAME with its
program is one atomic command (R185; spec/20_memory.md R106). -/

namespace Sys2Proof.Machine

open Sys2Proof

/-! ### One pass of RunProgram's loop (R186) -/

/-- Execute(w, data, ctx = PROGRAM, pc) of a decoded command (R180, R186): the meaning the command has in the host stream,
with the PC in place; a FRAME in a program is CONTEXT like every host-only command (spec/60_exceptions.md R401, R410). -/
def executeInProgram (i : Instr) (s : State) : Host.Outcome State Fault Refusal :=
  match i with
  | .endProg => execEndProg s
  | .nop => execNop s
  | .wreg a v => execWreg a v s
  | .rreg a => execRreg a s
  | .init => execInit s
  | .pload a p => execPload a p s
  | .frame l r => .next (raiseError .context (.frame l r) s)
  | .mov xa xb => execMov xa xb s
  | .add xa xb xc => execAdd xa xb xc s
  | .sub xa xb xc => execSub xa xb xc s
  | .mul xa xb xc => execMul xa xb xc s
  | .ldk xa k => execLdk xa k s
  | .inp xa xb => execInp xa xb s
  | .out xb xc => execOut xb xc s
  | .dlRd xa u => execDlRd xa u s
  | .dlRdo xa xb u => execDlRdo xa xb u s
  | .dlWr xb u => execDlWr xb u s
  | .dlProc xa xb u => execDlProc xa xb u s
  | .fltProc xa xb u => execFltProc xa xb u s
  | .combProc xa xb u => execCombProc xa xb u s
  | .cbProc xa xb u => execCbProc xa xb u s
  | .apProc xa xb u => execApProc xa xb u s
  | .apcProc xa xb u => execApcProc xa xb u s
  | .fdnProc xa xb xc xe xm => execFdnProc xa xb xc xe xm s

/-- The words of PMEM from index p on (R186). -/
def programWords (p : Nat) (s : State) : List Word := s.pmem.toList.drop p

/-- pc <- pc + n, unless the command ended the program (R186). -/
def advancePc (n : Nat) (s : State) : State := { s with pc := s.pc.map fun p => p + n }

/-- The cause of a program word with a 1 in a reserved bit: CONTEXT comes before RESERVED_FIELD
(spec/60_exceptions.md R401 checks 2 and 3). -/
def programReservedCause (w : Word) : Cause := if headerHostOnly w then .context else .reservedField

/-- A program word that gives no command: the error is recorded and its words are skipped (spec/60_exceptions.md R403,
R405). -/
def failInProgram (k : Cause) (w : Word) (s : State) : State := advancePc (commandLength w) (recordError k w s)

/-- PROG_OVERRUN: the error names the header, or 0x00000000 at PC = PMEM_DEPTH, and the program ends
(R186, spec/60_exceptions.md R404, R405). -/
def overrun (p : Nat) (s : State) : State :=
  { recordError .progOverrun ((programWords p s).headD 0#32) s with pc := none }

/-- One pass of the loop with the PC at p (R186). Words that run past PMEM are PROG_OVERRUN, before any other check
(spec/60_exceptions.md R401). -/
def programStep (p : Nat) (s : State) : Host.Outcome State Fault Refusal :=
  match decode (programWords p s) with
  | .ok (i, _) => andThen (executeInProgram i s) fun t => .next (advancePc i.length t)
  | .error (.illegalOpcode w) => .next (failInProgram .illegalOpcode w s)
  | .error (.reservedField w) => .next (failInProgram (programReservedCause w) w s)
  | .error .needWords => .next (overrun p s)

/-- RunProgram from the PC on, at most n passes of its loop; it is over when the PC no longer exists (R186). Each pass
is one command of the frame program, and the IRQ level is re-evaluated after it (spec/60_exceptions.md R406). -/
def runProgram : Nat → State → Host.Outcome State Fault Refusal
  | 0, s => .next s
  | n + 1, s =>
    match s.pc with
    | none => .next s
    | some p => andThen (programStep p s) fun t => runProgram n (updateIrq t)

/-- PMEM_DEPTH + 1 passes: each pass ends the program or advances the PC by at least 1, so more are never made
(R186: every FRAME ends; spec/70_reset_and_hazards.md R461). -/
def frameFuel : Nat := 257

/-! ### FRAME -/

/-- FRAME up to RunProgram: the input frame through S, the output frame +0.0, PC 0 (R185, R186). -/
def startFrame (l r : Word) (s : State) : State :=
  { s with
    finL := F32.sanitise l
    finR := F32.sanitise r
    foutL := F32.zero
    foutR := F32.zero
    pc := some 0 }

/-- FRAME after RunProgram: FRAMECNT counts the frame and FOUT_L and FOUT_R are emitted; no PC exists
(R185, spec/10_state.md R33). -/
def finishFrame (s : State) : State :=
  emit s.foutR (emit s.foutL { s with pc := none, frameCnt := s.frameCnt + 1#32 })

/-- The rest of a FRAME whose program is at the PC: the run to its end, the count and the two words (R185). -/
def completeFrame (s : State) : Host.Outcome State Fault Refusal :=
  andThen (runProgram frameFuel s) fun t => .next (finishFrame t)

/-- FRAME (R185), with its whole frame program. -/
def execFrame (l r : Word) (s : State) : Host.Outcome State Fault Refusal :=
  match s.pc with
  | none => completeFrame (startFrame l r s)
  | some _ => .next (raiseError .context (.frame l r) s)

end Sys2Proof.Machine
end

