-- ==== Sys2Proof/Machine/Dispatch.lean ====
section
/-! DEFINITION. Execute of spec/40_sequencer.md R180: one arm per command, each a call of its meaning. -/

namespace Sys2Proof.Machine

open Sys2Proof

def exec (i : Instr) (s : State) : Host.Outcome State Fault Refusal :=
  match i with
  | .endProg => Sys2Proof.Machine.execEndProg s
  | .nop => Sys2Proof.Machine.execNop s
  | .wreg a v => Sys2Proof.Machine.execWreg a v s
  | .rreg a => Sys2Proof.Machine.execRreg a s
  | .init => Sys2Proof.Machine.execInit s
  | .pload a p => Sys2Proof.Machine.execPload a p s
  | .frame l r => Sys2Proof.Machine.execFrame l r s
  | .mov xa xb => Sys2Proof.Machine.execMov xa xb s
  | .add xa xb xc => Sys2Proof.Machine.execAdd xa xb xc s
  | .sub xa xb xc => Sys2Proof.Machine.execSub xa xb xc s
  | .mul xa xb xc => Sys2Proof.Machine.execMul xa xb xc s
  | .ldk xa k => Sys2Proof.Machine.execLdk xa k s
  | .inp xa xb => Sys2Proof.Machine.execInp xa xb s
  | .out xb xc => Sys2Proof.Machine.execOut xb xc s
  | .dlRd xa u => Sys2Proof.Machine.execDlRd xa u s
  | .dlRdo xa xb u => Sys2Proof.Machine.execDlRdo xa xb u s
  | .dlWr xb u => Sys2Proof.Machine.execDlWr xb u s
  | .dlProc xa xb u => Sys2Proof.Machine.execDlProc xa xb u s
  | .fltProc xa xb u => Sys2Proof.Machine.execFltProc xa xb u s
  | .combProc xa xb u => Sys2Proof.Machine.execCombProc xa xb u s
  | .cbProc xa xb u => Sys2Proof.Machine.execCbProc xa xb u s
  | .apProc xa xb u => Sys2Proof.Machine.execApProc xa xb u s
  | .apcProc xa xb u => Sys2Proof.Machine.execApcProc xa xb u s
  | .fdnProc xa xb xc xe xm => Sys2Proof.Machine.execFdnProc xa xb xc xe xm s

end Sys2Proof.Machine
end

