-- ==== Sys2Proof/Machine/Fetch.lean ====
section
/-! DEFINITION. Taking the next command of the host stream (spec/40_sequencer.md R180), what a word that decodes to no
command does (spec/60_exceptions.md R401, R403, R405), and placing a command where the next step fetches it. The program
fetch stands in Frame.lean. -/

namespace Sys2Proof.Machine

open Sys2Proof

/-- Take n words off the host stream (R180). -/
def consume (n : Nat) (s : State) : State := { s with hostIn := s.hostIn.drop n }

/-- A command of the host stream that fails still emits its words: RREG one 0x00000000, FRAME two
(spec/60_exceptions.md R403). -/
def emitFailed (w : Word) (s : State) : State :=
  match opcodeOf (opField w) with
  | some .rreg => emit 0#32 s
  | some .frame => emit 0#32 (emit 0#32 s)
  | _ => s

/-- A header word that gives no command: its words are consumed, the error is recorded, and the words a failed command
always emits are emitted (spec/60_exceptions.md R403, R404, R405). -/
def failWord (k : Cause) (w : Word) (s : State) : State :=
  emitFailed w (recordError k w (consume (commandLength w) s))

/-- What the sequencer finds next. -/
inductive Fetched where
  /-- the host stream does not hold a whole command: wait (spec/30_encoding.md R151) -/
  | hold
  /-- no command to execute: the state after the error -/
  | failed (t : State)
  /-- a command, and the state in which it is executed -/
  | run (i : Instr) (s : State)

/-- Fetch and decode the next command of the host stream (R180). -/
def fetchCommand (s : State) : Fetched :=
  match decode s.hostIn with
  | .ok (i, _) => .run i (consume i.length s)
  | .error (.illegalOpcode w) => .failed (failWord .illegalOpcode w s)
  | .error (.reservedField w) => .failed (failWord .reservedField w s)
  | .error .needWords => .hold

/-! ### Placing a command where the next step fetches it -/

/-- The words of one command whose row bits are w, no more than its header gives it. -/
def placedWords (nbits w : Nat) : List Word := (tableWords nbits w).take (commandLength (tableWord nbits w 0))

/-- Put a command's words where the next step fetches: at the front of the host stream, with no frame in progress. -/
def placeWords (ws : List Word) (s : State) : State := { s with hostIn := ws ++ s.hostIn, pc := none }

/-- The host has read as many of the oldest response words as the sequencer is stalled on (spec/30_encoding.md
R152). -/
def unstall (s : State) : State := { s with rsp := s.rsp.drop (heldWords s).length }

end Sys2Proof.Machine
end

