-- ==== Sys2Proof/Machine/Step.lean ====
section
/-! DEFINITION. One step of the sequencer: one command of the host stream, whole (spec/40_sequencer.md R180,
spec/20_memory.md R106). -/

namespace Sys2Proof.Machine

open Sys2Proof

/-- One step. A stalled or holding sequencer does nothing (spec/30_encoding.md R151, R152, spec/60_exceptions.md
R415); otherwise the next command of the host stream is fetched and executed, and the IRQ level is re-evaluated (a FRAME has
re-evaluated it after every command of its program too, spec/60_exceptions.md R406). A PC
exists between steps in no state that a run reaches; where one does, the step completes that FRAME
(notes/assumptions/7.md). -/
def step (s : State) : Host.Outcome State Fault Refusal :=
  if stalled s then .next s
  else
    match s.pc with
    | some _ => andThen (completeFrame s) fun t => .next (settle t)
    | none =>
      match fetchCommand s with
      | .hold => .next s
      | .failed t => .next (settle t)
      | .run i s' => andThen (exec i s') fun t => .next (settle t)

/-- s with the command whose table bits are w placed where step fetches its next command, and the response queue read
down to where the sequencer is not stalled. It stands for the host sending that command (notes/assumptions/8.md). -/
def State.withFetchWord (s : State) (nbits w : Nat) : State := placeWords (placedWords nbits w) (unstall s)

end Sys2Proof.Machine
end

