-- ==== Sys2Proof/Machine/HostPort.lean ====
section
/-! DEFINITION. What the outside world can do to the machine between steps: send a word, read a response word, assert
reset (spec/00_scope.md R7, spec/30_encoding.md R151, R152, spec/70_reset_and_hazards.md R440, R441). -/

namespace Sys2Proof.Machine

open Sys2Proof

/-- The host sends one word: it arrives at the end of the host stream (spec/30_encoding.md R151). -/
def hostSend (w : Word) (s : State) : State := { s with hostIn := s.hostIn ++ [w] }

/-- The host reads the oldest response word; none when the queue is empty. When this lets the last emit of a stalled
command happen, the command is complete and the IRQ level is re-evaluated (spec/30_encoding.md R152,
spec/60_exceptions.md R406). -/
def hostTake (s : State) : Option (Word × State) :=
  match s.rsp with
  | [] => none
  | w :: ws => some (w, settle { s with rsp := ws })

/-- A line with its canonical registers at their reset values (spec/70_reset_and_hazards.md R441 step 1). -/
def canonLine (l : Fin 44) (ln : Line) : Line :=
  { ln with maxMs := (resetLine l).maxMs, lenMs := F32.zero }

/-- Steps 1 to 3 of the reset procedure: canonical registers, PMEM and coefficients
(spec/70_reset_and_hazards.md R441). -/
def resetCanonical (s : State) : State :=
  { s with
    x := Vector.replicate 16 F32.zero
    finL := F32.zero
    finR := F32.zero
    foutL := F32.zero
    foutR := F32.zero
    pc := none
    pmem := Vector.replicate 256 0#32
    cause := none
    errWord := 0#32
    errPc := 0#32
    errIe := false
    clampIe := false
    fs := F32.c44100
    frameCnt := 0#32
    lines := Vector.ofFn fun l => canonLine l s.lines[l]
    filters := Vector.ofFn fun f =>
      { s.filters[f] with kind := .bypass, fc := F32.c1000, p := F32.one, co := bypassCoefs }
    combs := Vector.ofFn fun c => { s.combs[c] with makeup := F32.one }
    banks := Vector.replicate 2 resetBank
    chains := Vector.replicate 4 ⟨F32.zero, .canonical⟩
    fdn :=
      { s.fdn with
        room := F32.one
        roomSel := 0#6
        decay := F32.one
        spread := F32.zero
        mixMode := .first
        modDepth := F32.zero
        dampKind := .bypass
        dampFc := F32.c1000 } }

/-- Reset, at any time and from any state: the reset procedure (spec/70_reset_and_hazards.md R440, R441, R446). R446
names the partial command and the response queue as discarded; that whole commands which have arrived and are not yet
taken are discarded too is a DESIGN CHOICE, unsafe (notes/assumptions/19.md). -/
def assertReset (s : State) : State :=
  { initProc (resetCanonical s) with err := false, clamp := false, hostIn := [], rsp := [], irq := false }

end Sys2Proof.Machine
end

