-- ==== Sys2Proof/Safety.lean ====
section
/-! DEFINITION. The terms the statements use: what a correctly rounded result is, what one delay-line write and one
filter step do, and the invariants of the machine (spec/00_scope.md R9 to R11, spec/10_state.md R45,
spec/20_memory.md R102, spec/60_exceptions.md R406). -/

namespace Sys2Proof.Safety

open Sys2Proof Sys2Proof.Machine

/-! ### Numbers -/

/-- r is the exact value num/den, in units of 2^-149, rounded to binary32, to nearest with ties to even
(spec/00_scope.md R9). From half a unit in the last place above FLT_MAX on, the result is the infinity of the sign. -/
def NearestEven (num : Int) (den : Nat) (r : F32) : Prop :=
  if (2 ^ 25 - 1) * 2 ^ 252 * den ≤ num.natAbs then r = F32.pack (decide (num < 0)) 0x7F800000
  else
    F32.isFinite r = true ∧
    ∀ q : F32, F32.isFinite q = true →
      (num - F32.val r * den).natAbs ≤ (num - F32.val q * den).natAbs ∧
      ((num - F32.val r * den).natAbs = (num - F32.val q * den).natAbs → F32.val q ≠ F32.val r → r.getLsbD 0 = false)

/-- v is a number in [lo, hi] (spec/00_scope.md R11; -0.0 counts as +0.0). -/
abbrev InRange (lo hi v : F32) : Prop := F32.isNaN v = false ∧ F32.lt v lo = false ∧ F32.lt hi v = false

/-- The flag condition of a register write: v was not a number, or the stored value differs from v
(spec/10_state.md R37). -/
abbrev writeClamps (v stored : F32) : Bool := F32.isNaN v || stored != v

/-- 10^(-3L/(T*FS)) before the cap (spec/43_comb.md R300). -/
def decayLaw (fs len decay : F32) : F32 :=
  Config.xfnPow10 (F32.div (F32.mul F32.negThree len) (F32.mul decay fs))

/-- The cap of the decay law (spec/43_comb.md R300). -/
def capGain (m : F32) : F32 := if F32.lt F32.gmax m then F32.gmax else m

/-- The codes of FLT_KIND (spec/10_state.md R54). -/
abbrev KindCodes : Prop :=
  kindCode .bypass = 0#32 ∧ kindCode .lp1 = 1#32 ∧ kindCode .hp1 = 2#32 ∧ kindCode .shelf1 = 3#32 ∧
  kindCode .vicanek1 = 4#32 ∧ kindCode .lp2 = 5#32 ∧ kindCode .hp2 = 6#32 ∧ kindCode .raw = 7#32

/-! ### One write, one filter step -/

/-- ln' is ln after DlWrite of v: the word at the cursor is S(v), every other word reads as before, and the cursor is
advanced modulo the capacity (spec/41_delay_line.md R232). The memory clause asks for the one form that every buffer of
a machine has (`BuffersOk`). -/
def WritesWord (ln ln' : Line) (v : F32) : Prop :=
  ln' = { ln with buf := ln'.buf, wptr := (ln.wptr + 1) % ln.cap } ∧
  (memWf ln.buf = true →
    memWf ln'.buf = true ∧
    ∀ j, memRead ln'.buf j = if j = ln.wptr then F32.sanitise v else memRead ln.buf j)

/-- FltStep with input x answers y and leaves f' (spec/42_filters.md R270). -/
def FltSteps (f : Filter) (x y : F32) (f' : Filter) : Prop :=
  y = F32.sanitise (F32.add (F32.mul f.co.b0 x) f.s1) ∧
  f' = { f with
    s1 := F32.sanitise (F32.add (F32.sub (F32.mul f.co.b1 x) (F32.mul f.co.a1 y)) f.s2)
    s2 := F32.sanitise (F32.sub (F32.mul f.co.b2 x) (F32.mul f.co.a2 y)) }

/-! ### Invariants -/

/-- A line's buffer is in the one form, holds reachable words only, and its cursor and capacity are in their ranges
(spec/10_state.md R45, spec/20_memory.md R102). -/
abbrev BufferOk (l : Fin 44) (ln : Line) : Prop :=
  2 ≤ ln.cap ∧ ln.cap ≤ phys l ∧ ln.wptr < ln.cap ∧ memWf ln.buf = true ∧ memBelow ln.cap ln.buf = true

/-- Every line's buffer is well formed. -/
abbrev BuffersOk (s : State) : Prop := ∀ l : Fin 44, BufferOk l s.lines[l]

/-- All five coefficients are finite (spec/42_filters.md R261, spec/10_state.md R58). -/
abbrev CoefsFinite (c : Coefs) : Prop :=
  F32.isFinite c.b0 = true ∧ F32.isFinite c.b1 = true ∧ F32.isFinite c.b2 = true ∧
  F32.isFinite c.a1 = true ∧ F32.isFinite c.a2 = true

/-- No binary32 state that holds audio, and no coefficient, is NaN or an infinity (spec/00_scope.md R10). -/
abbrev AudioFinite (s : State) : Prop :=
  (∀ r : Fin 16, F32.isFinite s.x[r] = true) ∧
  (F32.isFinite s.finL = true ∧ F32.isFinite s.finR = true) ∧
  (F32.isFinite s.foutL = true ∧ F32.isFinite s.foutR = true) ∧
  (∀ l : Fin 44, ∀ c ∈ s.lines[l].buf, F32.isFinite c.2 = true) ∧
  ∀ f : Fin 32,
    CoefsFinite s.filters[f].co ∧ F32.isFinite s.filters[f].s1 = true ∧ F32.isFinite s.filters[f].s2 = true

/-- The bound on a comb gain that holds for every pow10: not above GMAX where the unit's sign is positive, not below -GMAX
where it is negative (spec/43_comb.md R300 to R302, spec/10_state.md R61; notes/assumptions/1.md). -/
abbrev CombGainOk (bank : Bank) (k : Fin 8) (fb : F32) : Prop :=
  if signNegative bank.signMode k then F32.lt fb F32.negGmax = false else F32.lt F32.gmax fb = false

/-- Every canonical register with a range is in it (spec/10_state.md R41 to R78); comb gains and FDN gains have the bound
that the cap of the decay law gives for every pow10 (spec/43_comb.md R300). -/
abbrev RangesOk (s : State) : Prop :=
  InRange F32.c8000 F32.c192000 s.fs ∧
  (∀ l : Fin 44, InRange F32.zero F32.c100000 s.lines[l].maxMs ∧ InRange F32.zero F32.c100000 s.lines[l].lenMs) ∧
  (∀ f : Fin 32, InRange F32.c20 F32.c20000 s.filters[f].fc ∧ InRange F32.zero F32.one s.filters[f].p) ∧
  (∀ c : Fin 16,
    F32.isFinite s.combs[c].makeup = true ∧ CombGainOk s.banks[bankOf c] (posOf c) s.combs[c].fb) ∧
  (∀ b : Fin 2, InRange F32.c0_01 F32.c1000 s.banks[b].decay ∧ InRange F32.c20 F32.c20000 s.banks[b].dampFc) ∧
  (∀ ch : Fin 4, InRange F32.negGmax F32.gmax s.chains[ch].g) ∧
  InRange F32.zero F32.one s.fdn.room ∧ s.fdn.roomSel = 0#6 ∧ InRange F32.c0_01 F32.c1000 s.fdn.decay ∧
  InRange F32.zero F32.one s.fdn.spread ∧ InRange F32.zero F32.one s.fdn.modDepth ∧
  InRange F32.c20 F32.c20000 s.fdn.dampFc ∧
  ∀ i : Fin 8, F32.lt F32.gmax s.fdn.g[i] = false

/-- 1.0 <= DL_LEN[l] <= DL_CAP[l] - 1 for every line (spec/10_state.md R45). -/
abbrev LengthsOk (s : State) : Prop :=
  ∀ l : Fin 44, InRange F32.one (F32.ofNat (s.lines[l].cap - 1)) s.lines[l].len

/-- Between commands no PC exists (spec/10_state.md R33, spec/20_memory.md R106), the response queue holds at most
RSP_DEPTH words, and at most the two words of one command wait behind it (spec/30_encoding.md R152;
notes/assumptions/6.md). -/
abbrev ControlOk (s : State) : Prop := s.pc = none ∧ s.rsp.length ≤ Config.rspDepth + 2

/-- Between commands the IRQ level is what STATUS and CTRL give (spec/60_exceptions.md R406). -/
abbrev IrqOk (s : State) : Prop := stalled s = false → s.irq = irqLevel s

/-! ### What a frame program leaves alone -/

/-- Every register that the host configures, and every register derived from them, is the same in t as in s
(spec/60_exceptions.md R410). -/
def SameConfiguration (s t : State) : Prop :=
  t.pmem = s.pmem ∧ t.fs = s.fs ∧ t.errIe = s.errIe ∧ t.clampIe = s.clampIe ∧
  (∀ l : Fin 44, t.lines[l] = { s.lines[l] with buf := t.lines[l].buf, wptr := t.lines[l].wptr }) ∧
  (∀ f : Fin 32, t.filters[f] = { s.filters[f] with s1 := t.filters[f].s1, s2 := t.filters[f].s2 }) ∧
  t.combs = s.combs ∧ t.banks = s.banks ∧ t.chains = s.chains ∧ t.fdn = s.fdn

end Sys2Proof.Safety
end

