-- ==== Sys2Proof/Certificates/Slice0/Obligations.lean ====
section
/-! DEFINITION. The statements about FOXCORE for the provers. Each docstring names the rules of spec/ that its statement
rests on; a clause that is the model's own choice names its row of notes/assumptions. -/

open Sys2Proof Sys2Proof.Machine Sys2Proof.Safety

/-! ### Encoding (spec/30_encoding.md) -/

/-- Decoding the words of any command, with any words after them, gives the command back and leaves those words
(R141, R145, R146, R148). -/
def Obligations.DecodeOfEncode : Prop :=
  ∀ (i : Instr) (rest : List Word), decode (encode i ++ rest) = .ok (i, rest)

/-- A list of words that decodes is exactly the words of the command it decodes to and the rest: every bit of every word
is accounted for (R141, R145, R146, R147). -/
def Obligations.EncodeOfDecode : Prop :=
  ∀ (ws : List Word) (i : Instr) (rest : List Word), decode ws = .ok (i, rest) → encode i ++ rest = ws

/-- The three ways in which words give no command: an unassigned opcode (R149), a missing data word (R151), a 1 in a
reserved bit (R147); and the ranges of unassigned opcode values that R149 lists (its count of them is left aside,
notes/assumptions/18.md). -/
def Obligations.DecoderRejectsByName : Prop :=
  (∀ (v : BitVec 8) (o : Opcode), opcodeOf v = some o ↔ v = o.bits) ∧
  (∀ v : BitVec 8, opcodeOf v = none ↔
    ((0x07 ≤ v.toNat ∧ v.toNat ≤ 0x0F) ∨ (0x17 ≤ v.toNat ∧ v.toNat ≤ 0x1F) ∨ (0x24 ≤ v.toNat ∧ v.toNat ≤ 0x2F) ∨
     (0x31 ≤ v.toNat ∧ v.toNat ≤ 0x3F) ∨ (0x42 ≤ v.toNat ∧ v.toNat ≤ 0x4F) ∨ (0x52 ≤ v.toNat ∧ v.toNat ≤ 0x5F) ∨
     0x61 ≤ v.toNat)) ∧
  (∀ (w : Word) (ws : List Word), opcodeOf (opField w) = none →
    decode (w :: ws) = .error (.illegalOpcode w) ∧ commandLength w = 1) ∧
  ∀ (w : Word) (ws : List Word) (o : Opcode), opcodeOf (opField w) = some o →
    commandLength w = 1 + o.dataWords ∧
    (ws.length < o.dataWords → decode (w :: ws) = .error .needWords) ∧
    (o.dataWords ≤ ws.length → w &&& o.mask ≠ o.pattern → decode (w :: ws) = .error (.reservedField w))

/-- Words written out by hand from the spec's examples decode to the commands they stand for
(R153 and the examples of R181, R182, R184, R189, R193, R195, R235, R272, R305, R334). -/
def Obligations.WrittenOutWordsDecode : Prop :=
  decode [0x00000000#32] = .ok (.endProg, []) ∧
  decode [0x02002103#32, 0x43FA0000#32] = .ok (.wreg 0x2103#16 0x43FA0000#32, []) ∧
  decode [0x03000000#32] = .ok (.rreg 0x0000#16, []) ∧
  decode [0x05000000#32, 0x15010000#32] = .ok (.pload 0x0000#16 0x15010000#32, []) ∧
  decode [0x10520000#32] = .ok (.mov 5 2, []) ∧
  decode [0x14700000#32, 0x3E800000#32] = .ok (.ldk 7 0x3E800000#32, []) ∧
  decode [0x16045000#32] = .ok (.out 4 5, []) ∧
  decode [0x21210000#32] = .ok (.dlRdo 2 1 0#12, []) ∧
  decode [0x30100000#32] = .ok (.fltProc 1 0 0#12, []) ∧
  decode [0x40100000#32] = .ok (.combProc 1 0 0#12, []) ∧
  decode [0x50100000#32] = .ok (.apProc 1 0 0#12, []) ∧
  decode [0x60401052#32] = .ok (.fdnProc 4 0 1 5 2, [])

/-- The register map, whole: every register has its own address, a mapped address is the address of the register it names,
the address column and the access column (spec/10_state.md R35, R81). -/
def Obligations.RegisterMapIsOneToOne : Prop :=
  (∀ r : Reg, regOf (regAddr r) = some r) ∧ (∀ (a : BitVec 16) (r : Reg), regOf a = some r → regAddr r = a) ∧
  (regAddr .id = 0x0000#16 ∧ regAddr .version = 0x0001#16 ∧ regAddr .status = 0x0002#16 ∧ regAddr .cause = 0x0003#16 ∧
   regAddr .errWord = 0x0004#16 ∧ regAddr .errPc = 0x0005#16 ∧ regAddr .ctrl = 0x0006#16 ∧ regAddr .fs = 0x0007#16 ∧
   regAddr .frameCnt = 0x0008#16 ∧ regAddr .config0 = 0x0009#16 ∧ regAddr .config1 = 0x000A#16 ∧
   regAddr .config2 = 0x000B#16 ∧ regAddr .finL = 0x000C#16 ∧ regAddr .finR = 0x000D#16 ∧ regAddr .foutL = 0x000E#16 ∧
   regAddr .foutR = 0x000F#16) ∧
  (∀ i : Fin 16, (regAddr (.x i)).toNat = 0x0100 + i.val) ∧
  (∀ i : Fin 256, (regAddr (.pmem i)).toNat = 0x0200 + i.val) ∧
  (∀ l : Fin 44,
    (regAddr (.dlMaxMs l)).toNat = 0x1000 + l.val ∧ (regAddr (.dlLenMs l)).toNat = 0x1100 + l.val ∧
    (regAddr (.dlCap l)).toNat = 0x1200 + l.val ∧ (regAddr (.dlLen l)).toNat = 0x1300 + l.val ∧
    (regAddr (.dlWptr l)).toNat = 0x1400 + l.val) ∧
  (∀ f : Fin 32,
    (regAddr (.fltKind f)).toNat = 0x2000 + f.val ∧ (regAddr (.fltFc f)).toNat = 0x2100 + f.val ∧
    (regAddr (.fltP f)).toNat = 0x2200 + f.val ∧ (regAddr (.fltB0 f)).toNat = 0x2300 + f.val ∧
    (regAddr (.fltB1 f)).toNat = 0x2400 + f.val ∧ (regAddr (.fltB2 f)).toNat = 0x2500 + f.val ∧
    (regAddr (.fltA1 f)).toNat = 0x2600 + f.val ∧ (regAddr (.fltA2 f)).toNat = 0x2700 + f.val ∧
    (regAddr (.fltS1 f)).toNat = 0x2800 + f.val ∧ (regAddr (.fltS2 f)).toNat = 0x2900 + f.val) ∧
  (∀ c : Fin 16, (regAddr (.cbFb c)).toNat = 0x3000 + c.val ∧ (regAddr (.cbMk c)).toNat = 0x3100 + c.val) ∧
  (∀ b : Fin 2,
    (regAddr (.cbDecay b)).toNat = 0x3200 + b.val ∧ (regAddr (.cbSignMode b)).toNat = 0x3300 + b.val ∧
    (regAddr (.cbDampKind b)).toNat = 0x3400 + b.val ∧ (regAddr (.cbDampFc b)).toNat = 0x3500 + b.val) ∧
  (∀ ch : Fin 4, (regAddr (.apG ch)).toNat = 0x4000 + ch.val ∧ (regAddr (.apMode ch)).toNat = 0x4100 + ch.val) ∧
  (regAddr .fdnRoom = 0x5000#16 ∧ regAddr .fdnRoomSel = 0x5001#16 ∧ regAddr .fdnDecay = 0x5002#16 ∧
   regAddr .fdnSpread = 0x5003#16 ∧ regAddr .fdnMixMode = 0x5004#16 ∧ regAddr .fdnModDepth = 0x5005#16 ∧
   regAddr .fdnDampKind = 0x5006#16 ∧ regAddr .fdnDampFc = 0x5007#16 ∧ regAddr .fdnMods = 0x5008#16) ∧
  (∀ i : Fin 8, (regAddr (.fdnG i)).toNat = 0x5100 + i.val) ∧
  ∀ r : Reg,
    (regAccess r = .w1c ↔ r = .status) ∧
    (regAccess r = .rw ↔
      r ∈ [.ctrl, .fs, .fdnRoom, .fdnRoomSel, .fdnDecay, .fdnSpread, .fdnMixMode, .fdnModDepth, .fdnDampKind,
        .fdnDampFc] ∨
      (∃ i, r = .x i) ∨ (∃ l, r = .dlMaxMs l ∨ r = .dlLenMs l) ∨
      (∃ f, r ∈ [.fltKind f, .fltFc f, .fltP f, .fltB0 f, .fltB1 f, .fltB2 f, .fltA1 f, .fltA2 f]) ∨
      (∃ c, r = .cbFb c ∨ r = .cbMk c) ∨
      (∃ b, r ∈ [.cbDecay b, .cbSignMode b, .cbDampKind b, .cbDampFc b]) ∨ ∃ ch, r = .apG ch ∨ r = .apMode ch) ∧
    (regAccess r = .ro ↔
      r ∈ [.id, .version, .cause, .errWord, .errPc, .frameCnt, .config0, .config1, .config2, .finL, .finR, .foutL,
        .foutR, .fdnMods] ∨
      (∃ i, r = .pmem i) ∨ (∃ l, r = .dlCap l ∨ r = .dlLen l ∨ r = .dlWptr l) ∨ (∃ f, r = .fltS1 f ∨ r = .fltS2 f) ∨
      ∃ i, r = .fdnG i)

/-! ### The sequencer (spec/40_sequencer.md R180, R185, R186) -/

/-- In the host context, when the words that have arrived decode to a command, a step is exec of that command with its
words taken off the stream, and the IRQ level re-evaluated once the command is complete: one step is one command, a FRAME
with its whole program too (R180; spec/20_memory.md R106; spec/60_exceptions.md R406). That a command waiting at an emit
is not complete, so that IRQ keeps its level while it waits, is the model's (notes/assumptions/6.md). -/
def Obligations.StepRunsHostCommand : Prop :=
  ∀ (s : State) (i : Instr) (rest : List Word), s.pc = none → stalled s = false → decode s.hostIn = .ok (i, rest) →
    ∃ t, exec i { s with hostIn := rest } = .next t ∧
      step s = .next (if stalled t then t else { t with irq := irqLevel t })

/-- The loop of RunProgram runs the decoded command: with the words at the PC decoding to a command, a pass is exec of
that command in the state with that PC, the PC advanced by its length unless it ended the program, the IRQ level
re-evaluated (spec/60_exceptions.md R406), and the run goes on; with no PC it is over (R186). The number n counts the
passes still allowed. -/
def Obligations.RunProgramRunsTheDecodedCommand : Prop :=
  (∀ (n : Nat) (s : State) (p : Nat) (i : Instr) (rest : List Word), s.pc = some p →
    decode (s.pmem.toList.drop p) = .ok (i, rest) →
    ∃ t, exec i s = .next t ∧
      runProgram (n + 1) s =
        runProgram n { t with pc := t.pc.map fun q => q + i.length, irq := irqLevel t }) ∧
  ∀ (n : Nat) (s : State), s.pc = none → runProgram n s = .next s

/-- A sequencer that waits does nothing: for the words of a command to arrive (spec/30_encoding.md R151), or for response
space (R152; the queue holds more than RSP_DEPTH words only while it waits, notes/assumptions/6.md). -/
def Obligations.WaitingStepChangesNothing : Prop :=
  ∀ s : State,
    (stalled s = true ↔ Config.rspDepth < s.rsp.length) ∧
    (stalled s = true → step s = .next s) ∧
    (s.pc = none → s.hostIn = [] → step s = .next s) ∧
    ∀ (w : Word) (ws : List Word), s.pc = none → s.hostIn = w :: ws → ws.length + 1 < commandLength w →
      step s = .next s

/-- A header that gives no command is recorded and its words are skipped. In the host stream, a failed RREG still emits
one word and a failed FRAME two, and IRQ is re-evaluated (spec/60_exceptions.md R401, R403, R405, R406; not while the
failed command waits at an emit, which is the model's, notes/assumptions/6.md); in a frame program a host-only header is
CONTEXT rather than RESERVED_FIELD, nothing is emitted, IRQ is re-evaluated, and the run goes on after the words. -/
def Obligations.BadHeaderIsRecordedAndSkipped : Prop :=
  (∀ (s : State) (w : Word) (ws : List Word), s.pc = none → stalled s = false → s.hostIn = w :: ws →
    (opcodeOf (opField w) = none →
      step s = .next (settle (recordError .illegalOpcode w { s with hostIn := ws }))) ∧
    ∀ o, opcodeOf (opField w) = some o → o.dataWords ≤ ws.length → w &&& o.mask ≠ o.pattern →
      step s = .next (settle
        (let t := recordError .reservedField w { s with hostIn := ws.drop o.dataWords }
         { t with rsp := t.rsp ++ if o = .rreg then [0#32] else if o = .frame then [0#32, 0#32] else [] }))) ∧
  ∀ (n : Nat) (s : State) (p : Nat) (w : Word) (ws : List Word), s.pc = some p →
    s.pmem.toList.drop p = w :: ws →
    (opcodeOf (opField w) = none →
      let t := recordError .illegalOpcode w s
      runProgram (n + 1) s = runProgram n { t with pc := some (p + 1), irq := irqLevel t }) ∧
    ∀ o, opcodeOf (opField w) = some o → o.dataWords ≤ ws.length → w &&& o.mask ≠ o.pattern →
      let t := recordError (if o.hostOnly then .context else .reservedField) w s
      runProgram (n + 1) s = runProgram n { t with pc := some (p + (1 + o.dataWords)), irq := irqLevel t }

/-- A frame program that reaches PMEM_DEPTH, or a command whose words go past it, is PROG_OVERRUN: the error is recorded
with the PC in place, IRQ is re-evaluated and the run is over, with nothing else changed (R186; spec/60_exceptions.md
R404, R405, R406). What FRAME then counts and emits is FrameProgramEnds. -/
def Obligations.ProgramOverrunEndsTheFrame : Prop :=
  ∀ (n : Nat) (s : State) (p : Nat), s.pc = some p →
    (p = 256 →
      let t := recordError .progOverrun 0#32 s
      runProgram (n + 1) s = .next { t with pc := none, irq := irqLevel t }) ∧
    ∀ h : p < 256, 256 < p + commandLength s.pmem[p] →
      let t := recordError .progOverrun s.pmem[p] s
      runProgram (n + 1) s = .next { t with pc := none, irq := irqLevel t }

/-- FRAME, whole: from every state in the host context it runs its program from PMEM[0] to its end, which at most 257
passes of the loop reach, whatever PMEM holds (more passes change nothing); then it has counted the frame once and emitted
exactly FOUT_L and FOUT_R. The run keeps the input frame, FRAMECNT and the responses, and leaves IRQ at the level of the
flags. A step of a complete FRAME in the host stream is all of this, so that IRQ has the level of the flags also where
the response queue has no room for its words (R185, R186; spec/20_memory.md R106; spec/60_exceptions.md R406;
spec/70_reset_and_hazards.md R461). -/
def Obligations.FrameProgramEnds : Prop :=
  (∀ (l r : Word) (s : State), s.pc = none →
    ∃ u : State,
      (∀ n, 257 ≤ n →
        runProgram n { s with
          finL := F32.sanitise l, finR := F32.sanitise r, foutL := F32.zero, foutR := F32.zero, pc := some 0 } =
            .next u) ∧
      u.pc = none ∧ u.finL = F32.sanitise l ∧ u.finR = F32.sanitise r ∧ u.frameCnt = s.frameCnt ∧ u.rsp = s.rsp ∧
      u.irq = irqLevel u ∧
      exec (.frame l r) s = .next { u with frameCnt := u.frameCnt + 1#32, rsp := u.rsp ++ [u.foutL, u.foutR] }) ∧
  ∀ (l r : Word) (s : State) (ws : List Word), s.pc = none → stalled s = false →
    s.hostIn = 0x06000000#32 :: l :: r :: ws →
    ∃ t, exec (.frame l r) { s with hostIn := ws } = .next t ∧ step s = .next t ∧ t.irq = irqLevel t ∧ t.hostIn = ws ∧
      t.pc = none ∧ t.frameCnt = s.frameCnt + 1#32 ∧ t.rsp = s.rsp ++ [t.foutL, t.foutR]

/-- Words that arrive behind a whole command change nothing of what that command does, a FRAME with its program among
them: they only wait at the end of the host stream (spec/20_memory.md R106, R110). -/
def Obligations.HostWordsDoNotDisturbAFrame : Prop :=
  ∀ (s : State) (w : Word) (rest ws : List Word), s.pc = none → stalled s = false → s.hostIn = w :: rest →
    commandLength w ≤ rest.length + 1 →
    ∃ t, step s = .next t ∧ step { s with hostIn := s.hostIn ++ ws } = .next { t with hostIn := t.hostIn ++ ws }

/-! ### Control and sample-register commands (spec/40_sequencer.md) -/

/-- END and NOP: effect, encoding, reserved bits. In the host stream both change nothing; in a frame program END ends the
run and nothing after it is fetched, NOP advances the PC by 1, and a word with either opcode and a non-zero low part is
recorded and skipped, IRQ being re-evaluated after each (R186, R187, R188; spec/60_exceptions.md R406). -/
def Obligations.EndAndNopCommands : Prop :=
  (∀ s : State, s.pc = none → exec .endProg s = .next s) ∧
  (∀ s : State, exec .nop s = .next s) ∧
  (∀ (n : Nat) (s : State) (p : Nat) (rest : List Word), s.pc = some p →
    (s.pmem.toList.drop p = 0x00000000#32 :: rest →
      runProgram (n + 1) s = .next { s with pc := none, irq := irqLevel s }) ∧
    (s.pmem.toList.drop p = 0x01000000#32 :: rest →
      runProgram (n + 1) s = runProgram n { s with pc := some (p + 1), irq := irqLevel s }) ∧
    ∀ w, s.pmem.toList.drop p = w :: rest → opField w = 0x00#8 ∨ opField w = 0x01#8 → w.extractLsb' 0 24 ≠ 0#24 →
      let t := recordError .reservedField w s
      runProgram (n + 1) s = runProgram n { t with pc := some (p + 1), irq := irqLevel t }) ∧
  encode .endProg = [0x00000000#32] ∧ encode .nop = [0x01000000#32] ∧
  ∀ (w : Word) (ws : List Word), (w.extractLsb' 0 24) ≠ 0#24 →
    (opField w = 0x00#8 → decode (w :: ws) = .error (.reservedField w)) ∧
    (opField w = 0x01#8 → decode (w :: ws) = .error (.reservedField w))

/-- MOV and LDK, whole: effect (no flag, nothing else changed), encoding, reserved bits (R189, R193). -/
def Obligations.MovAndLdkCommands : Prop :=
  (∀ (xa xb : XReg) (s : State), exec (.mov xa xb) s = .next { s with x := s.x.set xa s.x[xb] }) ∧
  (∀ (xa : XReg) (k : Word) (s : State), exec (.ldk xa k) s = .next { s with x := s.x.set xa (F32.sanitise k) }) ∧
  (∀ (xa xb : XReg) (k : Word),
    encode (.mov xa xb) = [BitVec.ofNat 32 (0x10000000 + xa.val * 2 ^ 20 + xb.val * 2 ^ 16)] ∧
    encode (.ldk xa k) = [BitVec.ofNat 32 (0x14000000 + xa.val * 2 ^ 20), k]) ∧
  ∀ (w k : Word) (ws : List Word),
    (opField w = 0x10#8 → w.extractLsb' 0 16 ≠ 0#16 → decode (w :: ws) = .error (.reservedField w)) ∧
    (opField w = 0x14#8 → w.extractLsb' 0 20 ≠ 0#20 → decode (w :: k :: ws) = .error (.reservedField w))

/-- ADD, SUB and MUL, whole: S of one binary32 operation on the sources as they were before, nothing else changed,
encoding, reserved bits (R190, R191, R192). -/
def Obligations.AddSubMulCommands : Prop :=
  (∀ (xa xb xc : XReg) (s : State),
    exec (.add xa xb xc) s = .next { s with x := s.x.set xa (F32.sanitise (F32.add s.x[xb] s.x[xc])) } ∧
    exec (.sub xa xb xc) s =
      .next { s with x := s.x.set xa (F32.sanitise (F32.add s.x[xb] (F32.neg s.x[xc]))) } ∧
    exec (.mul xa xb xc) s = .next { s with x := s.x.set xa (F32.sanitise (F32.mul s.x[xb] s.x[xc])) }) ∧
  (∀ xa xb xc : XReg,
    encode (.add xa xb xc) =
      [BitVec.ofNat 32 (0x11000000 + xa.val * 2 ^ 20 + xb.val * 2 ^ 16 + xc.val * 2 ^ 12)] ∧
    encode (.sub xa xb xc) =
      [BitVec.ofNat 32 (0x12000000 + xa.val * 2 ^ 20 + xb.val * 2 ^ 16 + xc.val * 2 ^ 12)] ∧
    encode (.mul xa xb xc) =
      [BitVec.ofNat 32 (0x13000000 + xa.val * 2 ^ 20 + xb.val * 2 ^ 16 + xc.val * 2 ^ 12)]) ∧
  ∀ (w : Word) (ws : List Word), opField w = 0x11#8 ∨ opField w = 0x12#8 ∨ opField w = 0x13#8 →
    w.extractLsb' 0 12 ≠ 0#12 → decode (w :: ws) = .error (.reservedField w)

/-- IN and OUT, whole: effect (with one destination register, IN leaves FIN_R), encoding, reserved bits
(R194, R195). -/
def Obligations.InAndOutCommands : Prop :=
  (∀ (xa xb : XReg) (s : State), exec (.inp xa xb) s = .next { s with x := (s.x.set xa s.finL).set xb s.finR }) ∧
  (∀ (xb xc : XReg) (s : State), exec (.out xb xc) s = .next { s with foutL := s.x[xb], foutR := s.x[xc] }) ∧
  (∀ xa xb xc : XReg,
    encode (.inp xa xb) = [BitVec.ofNat 32 (0x15000000 + xa.val * 2 ^ 20 + xb.val * 2 ^ 16)] ∧
    encode (.out xb xc) = [BitVec.ofNat 32 (0x16000000 + xb.val * 2 ^ 16 + xc.val * 2 ^ 12)]) ∧
  ∀ (w : Word) (ws : List Word),
    (opField w = 0x15#8 → w.extractLsb' 0 16 ≠ 0#16 → decode (w :: ws) = .error (.reservedField w)) ∧
    (opField w = 0x16#8 → w.extractLsb' 20 4 ≠ 0#4 ∨ w.extractLsb' 0 12 ≠ 0#12 →
      decode (w :: ws) = .error (.reservedField w))

/-! ### Delay lines (spec/41_delay_line.md) -/

/-- clampD, whole (R233); a delay already in the range is unchanged. -/
def Obligations.ClampDRule : Prop :=
  ∀ (ln : Line) (d : F32),
    (F32.isNaN d = true ∨ F32.lt d F32.one = true → clampD ln d = F32.one) ∧
    (F32.isNaN d = false → F32.lt d F32.one = false → F32.lt (F32.ofNat (ln.cap - 1)) d = true →
      clampD ln d = F32.ofNat (ln.cap - 1)) ∧
    (InRange F32.one (F32.ofNat (ln.cap - 1)) d → clampD ln d = d)

/-- A tap reads between two neighbouring samples: the clamped delay has an integer part in [1, DL_CAP - 1] and a fraction
that is exact; an integer delay reads one word, a fractional one interpolates linearly and never reads the word at the
cursor; and f32 of an integer up to 2^24 is exact (R231; spec/00_scope.md R14). -/
def Obligations.TapReadsBetweenNeighbours : Prop :=
  (∀ n : Nat, n ≤ 2 ^ 24 → F32.isFinite (F32.ofNat n) = true ∧ F32.val (F32.ofNat n) = (n : Int) * 2 ^ 149) ∧
  ∀ (ln : Line) (d : F32), 2 ≤ ln.cap → ln.cap ≤ 32768 →
    let d' := clampD ln d
    let i := F32.floorNat d'
    let f := F32.sub d' (F32.ofNat i)
    let a := memRead ln.buf ((ln.wptr + ln.cap - i) % ln.cap)
    let b := memRead ln.buf ((ln.wptr + ln.cap - (i + 1)) % ln.cap)
    (1 ≤ i ∧ i ≤ ln.cap - 1) ∧
    (F32.val f = F32.val d' - (i : Int) * 2 ^ 149 ∧ 0 ≤ F32.val f ∧ F32.val f < 2 ^ 149) ∧
    (F32.val f = 0 → dlRead ln d = a) ∧
    (F32.val f ≠ 0 → i + 1 ≤ ln.cap - 1 ∧ dlRead ln d = F32.sanitise (F32.add a (F32.mul f (F32.sub b a))))

/-- After any sequence of writes, the word at delay i is S of the i-th most recent one, and what it was before where
fewer than i writes happened; INIT leaves every word +0.0 and the cursor at 0 (R230). -/
def Obligations.RecentWritesAreRead : Prop :=
  (∀ (ln : Line) (vs : List F32) (i : Nat), ln.wptr < ln.cap → memWf ln.buf = true → 1 ≤ i → i ≤ ln.cap - 1 →
    memRead (vs.foldl dlWrite ln).buf (((vs.foldl dlWrite ln).wptr + ln.cap - i) % ln.cap) =
      if i ≤ vs.length then F32.sanitise (vs.reverse.getD (i - 1) F32.zero)
      else memRead ln.buf ((ln.wptr + ln.cap - (i - vs.length)) % ln.cap)) ∧
  ∀ (s t : State) (l : Fin 44), s.pc = none → exec .init s = .next t →
    t.lines[l].wptr = 0 ∧ ∀ j, memRead t.lines[l].buf j = F32.zero

/-- DL.RD and DL.RDO, whole: the tap, nothing else changed, UNIT_RANGE, encoding, reserved bits (R234, R235). -/
def Obligations.DlRdAndDlRdoCommands : Prop :=
  (∀ (xa xb : XReg) (u : BitVec 12) (s : State) (h : u.toNat < 44),
    exec (.dlRd xa u) s =
      .next { s with x := s.x.set xa (dlRead s.lines[u.toNat] s.lines[u.toNat].len) } ∧
    exec (.dlRdo xa xb u) s =
      .next { s with x := s.x.set xa (dlRead s.lines[u.toNat] (F32.add s.lines[u.toNat].len s.x[xb])) }) ∧
  (∀ (xa xb : XReg) (u : BitVec 12) (s : State), 44 ≤ u.toNat →
    exec (.dlRd xa u) s = .next (recordError .unitRange (Instr.header (.dlRd xa u)) s) ∧
    exec (.dlRdo xa xb u) s = .next (recordError .unitRange (Instr.header (.dlRdo xa xb u)) s)) ∧
  (∀ (xa xb : XReg) (u : BitVec 12),
    encode (.dlRd xa u) = [BitVec.ofNat 32 (0x20000000 + xa.val * 2 ^ 20 + u.toNat)] ∧
    encode (.dlRdo xa xb u) = [BitVec.ofNat 32 (0x21000000 + xa.val * 2 ^ 20 + xb.val * 2 ^ 16 + u.toNat)]) ∧
  ∀ (w : Word) (ws : List Word),
    (opField w = 0x20#8 → w.extractLsb' 12 8 ≠ 0#8 → decode (w :: ws) = .error (.reservedField w)) ∧
    (opField w = 0x21#8 → w.extractLsb' 12 4 ≠ 0#4 → decode (w :: ws) = .error (.reservedField w))

/-- DL.WR, whole: S of the source goes to the word at the line's cursor and the cursor advances; every other word of
every line, and everything else, is unchanged; UNIT_RANGE, encoding, reserved bits (R236). -/
def Obligations.DlWrCommand : Prop :=
  (∀ (xb : XReg) (u : BitVec 12) (s : State) (h : u.toNat < 44),
    ∃ t, exec (.dlWr xb u) s = .next t ∧ { t with lines := s.lines } = s ∧
      (∀ l : Fin 44, l.val ≠ u.toNat → t.lines[l] = s.lines[l]) ∧
      WritesWord s.lines[u.toNat] t.lines[u.toNat] s.x[xb]) ∧
  (∀ (xb : XReg) (u : BitVec 12) (s : State), 44 ≤ u.toNat →
    exec (.dlWr xb u) s = .next (recordError .unitRange (Instr.header (.dlWr xb u)) s)) ∧
  (∀ (xb : XReg) (u : BitVec 12), encode (.dlWr xb u) = [BitVec.ofNat 32 (0x22000000 + xb.val * 2 ^ 16 + u.toNat)]) ∧
  ∀ (w : Word) (ws : List Word), opField w = 0x22#8 →
    w.extractLsb' 20 4 ≠ 0#4 ∨ w.extractLsb' 12 4 ≠ 0#4 → decode (w :: ws) = .error (.reservedField w)

/-- DL.PROC, whole: the tap is read from the line as it was before the write, the source is read before the destination
is written; every other word and everything else is unchanged; UNIT_RANGE, encoding, reserved bits (R237). -/
def Obligations.DlProcCommand : Prop :=
  (∀ (xa xb : XReg) (u : BitVec 12) (s : State) (h : u.toNat < 44),
    ∃ t, exec (.dlProc xa xb u) s = .next t ∧ { t with lines := s.lines, x := s.x } = s ∧
      t.x = s.x.set xa (dlRead s.lines[u.toNat] s.lines[u.toNat].len) ∧
      (∀ l : Fin 44, l.val ≠ u.toNat → t.lines[l] = s.lines[l]) ∧
      WritesWord s.lines[u.toNat] t.lines[u.toNat] s.x[xb]) ∧
  (∀ (xa xb : XReg) (u : BitVec 12) (s : State), 44 ≤ u.toNat →
    exec (.dlProc xa xb u) s = .next (recordError .unitRange (Instr.header (.dlProc xa xb u)) s)) ∧
  (∀ (xa xb : XReg) (u : BitVec 12),
    encode (.dlProc xa xb u) = [BitVec.ofNat 32 (0x23000000 + xa.val * 2 ^ 20 + xb.val * 2 ^ 16 + u.toNat)]) ∧
  ∀ (w : Word) (ws : List Word), opField w = 0x23#8 → w.extractLsb' 12 4 ≠ 0#4 →
    decode (w :: ws) = .error (.reservedField w)

/-! ### Filters (spec/42_filters.md) -/

/-- FLT.PROC, whole: one FltStep of the named filter, its result in XA, nothing else changed; UNIT_RANGE, encoding,
reserved bits (R270, R272). -/
def Obligations.FltProcCommand : Prop :=
  (∀ (xa xb : XReg) (u : BitVec 12) (s : State) (h : u.toNat < 32),
    ∃ t y, exec (.fltProc xa xb u) s = .next t ∧ { t with filters := s.filters, x := s.x } = s ∧
      FltSteps s.filters[u.toNat] s.x[xb] y t.filters[u.toNat] ∧ t.x = s.x.set xa y ∧
      ∀ f : Fin 32, f.val ≠ u.toNat → t.filters[f] = s.filters[f]) ∧
  (∀ (xa xb : XReg) (u : BitVec 12) (s : State), 32 ≤ u.toNat →
    exec (.fltProc xa xb u) s = .next (recordError .unitRange (Instr.header (.fltProc xa xb u)) s)) ∧
  (∀ (xa xb : XReg) (u : BitVec 12),
    encode (.fltProc xa xb u) = [BitVec.ofNat 32 (0x30000000 + xa.val * 2 ^ 20 + xb.val * 2 ^ 16 + u.toNat)]) ∧
  ∀ (w : Word) (ws : List Word), opField w = 0x30#8 → w.extractLsb' 12 4 ≠ 0#4 →
    decode (w :: ws) = .error (.reservedField w)

/-- COEFCALC: the coefficients of each kind and when it clamps (R261 to R268). That SHELF1 and VICANEK1 store a zero
for b2 and a2 is R268's requirement of the OPEN parameter, imposed by the model (notes/assumptions/3.md). -/
def Obligations.FilterCoefficientRules : Prop :=
  ∀ (fs : F32) (f : Filter),
    let lim := F32.mul F32.nyq fs
    let clamps := F32.lt lim f.fc
    let fe := if clamps then lim else f.fc
    let t := F32.div fe fs
    let a := Config.xfnExp (F32.neg (F32.mul F32.twoPi32 t))
    let k := Config.xfnTan (F32.mul F32.pi32 t)
    let k2 := F32.mul k k
    let r := F32.mul F32.sqrt2 k
    let n := F32.div F32.one (F32.add (F32.add F32.one r) k2)
    let b := F32.mul k2 n
    let a1 := F32.sanitise (F32.mul (F32.mul F32.two (F32.sub k2 F32.one)) n)
    let a2 := F32.sanitise (F32.mul (F32.add (F32.sub F32.one r) k2) n)
    let sh := Config.shelfCoef fe fs f.p
    let vi := Config.vicanekCoef fe fs f.p
    (f.kind = .raw → coefCalc fs f = (f.co, false)) ∧
    (f.kind = .bypass → coefCalc fs f = (⟨F32.one, F32.zero, F32.zero, F32.zero, F32.zero⟩, false)) ∧
    (f.kind = .lp1 → coefCalc fs f =
      (⟨F32.sanitise (F32.sub F32.one a), F32.zero, F32.zero, F32.sanitise (F32.neg a), F32.zero⟩, clamps)) ∧
    (f.kind = .hp1 → coefCalc fs f =
      (⟨F32.sanitise a, F32.sanitise (F32.neg a), F32.zero, F32.sanitise (F32.neg a), F32.zero⟩, clamps)) ∧
    (f.kind = .lp2 → coefCalc fs f =
      (⟨F32.sanitise b, F32.sanitise (F32.mul F32.two b), F32.sanitise b, a1, a2⟩, clamps)) ∧
    (f.kind = .hp2 → coefCalc fs f =
      (⟨F32.sanitise n, F32.sanitise (F32.mul F32.negTwo n), F32.sanitise n, a1, a2⟩, clamps)) ∧
    (f.kind = .shelf1 →
      (coefCalc fs f).2 = clamps ∧ (coefCalc fs f).1.b0 = F32.sanitise sh.1 ∧
      (coefCalc fs f).1.b1 = F32.sanitise sh.2.1 ∧ (coefCalc fs f).1.a1 = F32.sanitise sh.2.2.2.1 ∧
      F32.isZero (coefCalc fs f).1.b2 = true ∧ F32.isZero (coefCalc fs f).1.a2 = true) ∧
    (f.kind = .vicanek1 →
      (coefCalc fs f).2 = clamps ∧ (coefCalc fs f).1.b0 = F32.sanitise vi.1 ∧
      (coefCalc fs f).1.b1 = F32.sanitise vi.2.1 ∧ (coefCalc fs f).1.a1 = F32.sanitise vi.2.2.2.1 ∧
      F32.isZero (coefCalc fs f).1.b2 = true ∧ F32.isZero (coefCalc fs f).1.a2 = true)

/-- A BYPASS filter whose state is +0.0 answers every finite input but -0.0 bit for bit and keeps its state; on -0.0 it
answers +0.0, which compares equal (R262, R270; notes/assumptions/9.md). So a comb unit with such a filter multiplies
the circulating word by CB_FB once on every pass: with input +0.0 it writes S of the word DL_LEN back times CB_FB, and
the filter keeps its state (spec/43_comb.md R303, R304). -/
def Obligations.BypassFilterIsTransparent : Prop :=
  (∀ (f : Filter) (x : F32), f.co = ⟨F32.one, F32.zero, F32.zero, F32.zero, F32.zero⟩ →
    f.s1 = F32.zero → f.s2 = F32.zero → F32.isFinite x = true →
    (x ≠ 0x80000000#32 → FltSteps f x x f) ∧ (x = 0x80000000#32 → fltOut f x = F32.zero)) ∧
  ∀ (s : State) (xa xb : XReg) (u : BitVec 12) (h : u.toNat < 16),
    let c : Fin 16 := ⟨u.toNat, h⟩
    let f := s.filters[cbf c]
    let d := dlRead s.lines[cbl c] s.lines[cbl c].len
    f.co = ⟨F32.one, F32.zero, F32.zero, F32.zero, F32.zero⟩ → f.s1 = F32.zero → f.s2 = F32.zero →
    F32.isFinite d = true → d ≠ 0x80000000#32 → s.x[xb] = F32.zero →
    ∃ t, exec (.combProc xa xb u) s = .next t ∧ t.filters = s.filters ∧
      WritesWord s.lines[cbl c] t.lines[cbl c] (F32.add F32.zero (F32.mul d s.combs[c].fb)) ∧
      t.x = s.x.set xa (F32.sanitise (F32.mul d s.combs[c].makeup))

/-! ### Combs (spec/43_comb.md) -/

/-- COMB.PROC, whole: one CombStep (the tap is read before the write, damped, fed back, scaled by the makeup gain),
everything else unchanged; UNIT_RANGE, encoding, reserved bits (R304, R305). -/
def Obligations.CombProcCommand : Prop :=
  (∀ (xa xb : XReg) (u : BitVec 12) (s : State) (h : u.toNat < 16),
    let c : Fin 16 := ⟨u.toNat, h⟩
    ∃ t y, exec (.combProc xa xb u) s = .next t ∧ { t with lines := s.lines, filters := s.filters, x := s.x } = s ∧
      FltSteps s.filters[cbf c] (dlRead s.lines[cbl c] s.lines[cbl c].len) y t.filters[cbf c] ∧
      WritesWord s.lines[cbl c] t.lines[cbl c] (F32.add s.x[xb] (F32.mul y s.combs[c].fb)) ∧
      t.x = s.x.set xa (F32.sanitise (F32.mul y s.combs[c].makeup)) ∧
      (∀ l : Fin 44, l ≠ cbl c → t.lines[l] = s.lines[l]) ∧ ∀ f : Fin 32, f ≠ cbf c → t.filters[f] = s.filters[f]) ∧
  (∀ (xa xb : XReg) (u : BitVec 12) (s : State), 16 ≤ u.toNat →
    exec (.combProc xa xb u) s = .next (recordError .unitRange (Instr.header (.combProc xa xb u)) s)) ∧
  (∀ (xa xb : XReg) (u : BitVec 12),
    encode (.combProc xa xb u) = [BitVec.ofNat 32 (0x40000000 + xa.val * 2 ^ 20 + xb.val * 2 ^ 16 + u.toNat)]) ∧
  ∀ (w : Word) (ws : List Word), opField w = 0x40#8 → w.extractLsb' 12 4 ≠ 0#4 →
    decode (w :: ws) = .error (.reservedField w)

/-- CB.PROC, whole: every unit of the bank does one CombStep on the same input from the state before the command, and the
eight outputs are summed left to right without scaling; everything else unchanged; UNIT_RANGE, encoding, reserved bits
(R304, R306). -/
def Obligations.CbProcCommand : Prop :=
  (∀ (xa xb : XReg) (u : BitVec 12) (s : State) (h : u.toNat < 2),
    let b : Fin 2 := ⟨u.toNat, h⟩
    ∃ (t : State) (y : Fin 8 → F32),
      exec (.cbProc xa xb u) s = .next t ∧ { t with lines := s.lines, filters := s.filters, x := s.x } = s ∧
      (∀ k : Fin 8,
        let c := combOf b k
        FltSteps s.filters[cbf c] (dlRead s.lines[cbl c] s.lines[cbl c].len) (y k) t.filters[cbf c] ∧
        WritesWord s.lines[cbl c] t.lines[cbl c] (F32.add s.x[xb] (F32.mul (y k) s.combs[c].fb))) ∧
      (let o : Fin 8 → F32 := fun k => F32.sanitise (F32.mul (y k) s.combs[combOf b k].makeup)
       t.x = s.x.set xa (F32.sanitise (F32.add (F32.add (F32.add (F32.add (F32.add (F32.add (F32.add
         (o 0) (o 1)) (o 2)) (o 3)) (o 4)) (o 5)) (o 6)) (o 7)))) ∧
      (∀ l : Fin 44, (∀ k : Fin 8, l ≠ cbl (combOf b k)) → t.lines[l] = s.lines[l]) ∧
      ∀ f : Fin 32, (∀ k : Fin 8, f ≠ cbf (combOf b k)) → t.filters[f] = s.filters[f]) ∧
  (∀ (xa xb : XReg) (u : BitVec 12) (s : State), 2 ≤ u.toNat →
    exec (.cbProc xa xb u) s = .next (recordError .unitRange (Instr.header (.cbProc xa xb u)) s)) ∧
  (∀ (xa xb : XReg) (u : BitVec 12),
    encode (.cbProc xa xb u) = [BitVec.ofNat 32 (0x41000000 + xa.val * 2 ^ 20 + xb.val * 2 ^ 16 + u.toNat)]) ∧
  ∀ (w : Word) (ws : List Word), opField w = 0x41#8 → w.extractLsb' 12 4 ≠ 0#4 →
    decode (w :: ws) = .error (.reservedField w)

/-! ### All-pass stages (spec/44_allpass.md) -/

/-- AP.PROC, whole: one APStep in the mode of the stage's chain, everything else unchanged; UNIT_RANGE, encoding,
reserved bits (R331, R332, R334). -/
def Obligations.ApProcCommand : Prop :=
  (∀ (xa xb : XReg) (u : BitVec 12) (s : State) (h : u.toNat < 16),
    let a : Fin 16 := ⟨u.toNat, h⟩
    let ch := s.chains[u.toNat / 4]
    let x := s.x[xb]
    let d := dlRead s.lines[apl a] s.lines[apl a].len
    let y := F32.sanitise (F32.sub d (F32.mul ch.g x))
    ∃ t, exec (.apProc xa xb u) s = .next t ∧ { t with lines := s.lines, x := s.x } = s ∧
      t.x = s.x.set xa y ∧
      (ch.mode = .canonical → WritesWord s.lines[apl a] t.lines[apl a] (F32.add x (F32.mul ch.g y))) ∧
      (ch.mode = .literal → WritesWord s.lines[apl a] t.lines[apl a] (F32.add x (F32.mul ch.g d))) ∧
      ∀ l : Fin 44, l ≠ apl a → t.lines[l] = s.lines[l]) ∧
  (∀ (xa xb : XReg) (u : BitVec 12) (s : State), 16 ≤ u.toNat →
    exec (.apProc xa xb u) s = .next (recordError .unitRange (Instr.header (.apProc xa xb u)) s)) ∧
  (∀ (xa xb : XReg) (u : BitVec 12),
    encode (.apProc xa xb u) = [BitVec.ofNat 32 (0x50000000 + xa.val * 2 ^ 20 + xb.val * 2 ^ 16 + u.toNat)]) ∧
  ∀ (w : Word) (ws : List Word), opField w = 0x50#8 → w.extractLsb' 12 4 ≠ 0#4 →
    decode (w :: ws) = .error (.reservedField w)

/-- APC.PROC, whole: the chain's four stages run serially from the state before the command, each output the next
input, with the chain's coefficient and mode; everything else unchanged; UNIT_RANGE, encoding, reserved bits
(R331, R332, R335). -/
def Obligations.ApcProcCommand : Prop :=
  (∀ (xa xb : XReg) (u : BitVec 12) (s : State) (h : u.toNat < 4),
    let ch : Fin 4 := ⟨u.toNat, h⟩
    let g := s.chains[ch].g
    let d : Fin 4 → F32 := fun k => dlRead s.lines[apl (stageOf ch k)] s.lines[apl (stageOf ch k)].len
    ∃ (t : State) (v y : Fin 4 → F32),
      exec (.apcProc xa xb u) s = .next t ∧ { t with lines := s.lines, x := s.x } = s ∧
      (v 0 = s.x[xb] ∧ v 1 = y 0 ∧ v 2 = y 1 ∧ v 3 = y 2 ∧ t.x = s.x.set xa (y 3)) ∧
      (∀ k : Fin 4, y k = F32.sanitise (F32.sub (d k) (F32.mul g (v k))) ∧
        WritesWord s.lines[apl (stageOf ch k)] t.lines[apl (stageOf ch k)]
          (if s.chains[ch].mode = .canonical then F32.add (v k) (F32.mul g (y k))
           else F32.add (v k) (F32.mul g (d k)))) ∧
      ∀ l : Fin 44, (∀ k : Fin 4, l ≠ apl (stageOf ch k)) → t.lines[l] = s.lines[l]) ∧
  (∀ (xa xb : XReg) (u : BitVec 12) (s : State), 4 ≤ u.toNat →
    exec (.apcProc xa xb u) s = .next (recordError .unitRange (Instr.header (.apcProc xa xb u)) s)) ∧
  (∀ (xa xb : XReg) (u : BitVec 12),
    encode (.apcProc xa xb u) = [BitVec.ofNat 32 (0x51000000 + xa.val * 2 ^ 20 + xb.val * 2 ^ 16 + u.toNat)]) ∧
  ∀ (w : Word) (ws : List Word), opField w = 0x51#8 → w.extractLsb' 12 4 ≠ 0#4 →
    decode (w :: ws) = .error (.reservedField w)

/-! ### The feedback delay network (spec/45_fdn.md) -/

/-- FDN.PROC, whole: the seven steps of R366 with the Householder relation of R364 and the mix modes of R365, everything
else unchanged, encoding, reserved bits. -/
def Obligations.FdnProcCommand : Prop :=
  (∀ (xa xb xc xe xm : XReg) (s : State),
    let m := if F32.lt s.x[xm] F32.negOne then F32.negOne else if F32.lt F32.one s.x[xm] then F32.one else s.x[xm]
    let mm := F32.mul m s.fdn.mods
    let q := F32.sub F32.one (F32.mul s.fdn.spread F32.half)
    let dl : Fin 8 → F32 := fun i =>
      clampD s.lines[fdl i]
        (if i.val % 2 = 0 then F32.add s.lines[fdl i].len mm else F32.sub s.lines[fdl i].len mm)
    let r : Fin 8 → F32 := fun i => dlRead s.lines[fdl i] (dl i)
    let p : Fin 8 → F32 := fun i => dlRead s.lines[fdl i] (F32.mul (dl i) q)
    let oL :=
      if s.fdn.mixMode = .first then r 0
      else if s.fdn.mixMode = .split then
        F32.mul F32.quarter (F32.add (F32.add (F32.add (r 0) (r 2)) (r 4)) (r 6))
      else F32.mul F32.eighth (F32.add (F32.add (F32.add (F32.add (F32.add (F32.add (F32.add
        (r 0) (r 1)) (r 2)) (r 3)) (r 4)) (r 5)) (r 6)) (r 7))
    let oR :=
      if s.fdn.mixMode = .first then p 1
      else if s.fdn.mixMode = .split then
        F32.mul F32.quarter (F32.add (F32.add (F32.add (p 1) (p 3)) (p 5)) (p 7))
      else F32.mul F32.eighth (F32.sub (F32.add (F32.sub (F32.add (F32.sub (F32.add (F32.sub
        (p 0) (p 1)) (p 2)) (p 3)) (p 4)) (p 5)) (p 6)) (p 7))
    ∃ (t : State) (y : Fin 8 → F32),
      exec (.fdnProc xa xb xc xe xm) s = .next t ∧
      { t with lines := s.lines, filters := s.filters, x := s.x } = s ∧
      (let g : Fin 8 → F32 := fun i => F32.mul s.fdn.g[i] (y i)
       let h := F32.mul (F32.add (F32.add (F32.add (F32.add (F32.add (F32.add (F32.add
         (g 0) (g 1)) (g 2)) (g 3)) (g 4)) (g 5)) (g 6)) (g 7)) F32.quarter
       ∀ i : Fin 8, FltSteps s.filters[fdf i] (r i) (y i) t.filters[fdf i] ∧
         WritesWord s.lines[fdl i] t.lines[fdl i]
           (F32.add (F32.sub (g i) h) (if i.val % 2 = 0 then s.x[xb] else s.x[xc]))) ∧
      t.x = (s.x.set xa (F32.sanitise oL)).set xe (F32.sanitise oR) ∧
      (∀ l : Fin 44, (∀ i : Fin 8, l ≠ fdl i) → t.lines[l] = s.lines[l]) ∧
      ∀ f : Fin 32, (∀ i : Fin 8, f ≠ fdf i) → t.filters[f] = s.filters[f]) ∧
  (∀ xa xb xc xe xm : XReg,
    encode (.fdnProc xa xb xc xe xm) =
      [BitVec.ofNat 32 (0x60000000 + xa.val * 2 ^ 20 + xb.val * 2 ^ 16 + xc.val * 2 ^ 12 + xe.val * 2 ^ 4 +
        xm.val)]) ∧
  ∀ (w : Word) (ws : List Word), opField w = 0x60#8 → w.extractLsb' 8 4 ≠ 0#4 →
    decode (w :: ws) = .error (.reservedField w)

/-- With FDN_SPREAD = 0 the right tap of every line is its left tap, whatever the modulation (R366). -/
def Obligations.ZeroSpreadTapsAreEqual : Prop :=
  ∀ (s : State) (m : F32) (i : Fin 8), F32.isZero s.fdn.spread = true → fdnRightTap s m i = fdnLeftTap s m i

/-! ### Host commands (spec/40_sequencer.md R181 to R185) -/

/-- WREG's checks, in their order, and the legal sets of the enumerated registers; its encoding and reserved bits
(R181; spec/60_exceptions.md R402). The write rules are the statements named Write... below. -/
def Obligations.WregChecks : Prop :=
  (∀ (a : BitVec 16) (v : Word) (s : State), s.pc = none →
    (regOf a = none → exec (.wreg a v) s = .next (recordError .regAddr (Instr.header (.wreg a v)) s)) ∧
    ∀ r, regOf a = some r →
      (regAccess r = .ro → exec (.wreg a v) s = .next (recordError .regRo (Instr.header (.wreg a v)) s)) ∧
      (regAccess r ≠ .ro → regLegal r v = false →
        exec (.wreg a v) s = .next (recordError .badValue (Instr.header (.wreg a v)) s)) ∧
      (regAccess r ≠ .ro → regLegal r v = true → exec (.wreg a v) s = .next (writeReg r v s))) ∧
  (∀ (a : BitVec 16) (v : Word), encode (.wreg a v) = [BitVec.ofNat 32 (0x02000000 + a.toNat), v]) ∧
  (∀ (w v : Word) (ws : List Word), opField w = 0x02#8 → w.extractLsb' 16 8 ≠ 0#8 →
    decode (w :: v :: ws) = .error (.reservedField w)) ∧
  ∀ v : Word,
    (regLegal .ctrl v = true ↔ v.toNat ≤ 3) ∧
    (∀ f, regLegal (.fltKind f) v = true ↔ v.toNat ≤ 7) ∧ (∀ b, regLegal (.cbDampKind b) v = true ↔ v.toNat ≤ 7) ∧
    (regLegal .fdnDampKind v = true ↔ v.toNat ≤ 7) ∧ (∀ b, regLegal (.cbSignMode b) v = true ↔ v.toNat ≤ 1) ∧
    (∀ ch, regLegal (.apMode ch) v = true ↔ v.toNat ≤ 1) ∧ (regLegal .fdnRoomSel v = true ↔ v = 0#32) ∧
    (regLegal .fdnMixMode v = true ↔ v.toNat ≤ 2)

/-- RREG, whole: one word on every execution in the host stream, no other effect of a successful read, the value every
register reads as, encoding, reserved bits (R182; spec/10_state.md R35 to R78; the codes of CAUSE,
spec/60_exceptions.md R400). -/
def Obligations.RregCommand : Prop :=
  (∀ (a : BitVec 16) (s : State), s.pc = none →
    (∀ r, regOf a = some r → exec (.rreg a) s = .next { s with rsp := s.rsp ++ [readReg r s] }) ∧
    (regOf a = none →
      exec (.rreg a) s = .next { recordError .regAddr (Instr.header (.rreg a)) s with rsp := s.rsp ++ [0#32] })) ∧
  (∀ a : BitVec 16, encode (.rreg a) = [BitVec.ofNat 32 (0x03000000 + a.toNat)]) ∧
  (∀ (w : Word) (ws : List Word), opField w = 0x03#8 → w.extractLsb' 16 8 ≠ 0#8 →
    decode (w :: ws) = .error (.reservedField w)) ∧
  ∀ s : State,
    (readReg .id s = 0x464F5843#32 ∧ readReg .version s = 0x00000007#32 ∧ readReg .config0 s = 0x08080204#32 ∧
     readReg .config1 s = 0x10080404#32 ∧ readReg .config2 s = 0x00000100#32) ∧
    readReg .status s = BitVec.ofNat 32 ((if s.err then 1 else 0) + if s.clamp then 2 else 0) ∧
    readReg .ctrl s = BitVec.ofNat 32 ((if s.errIe then 1 else 0) + if s.clampIe then 2 else 0) ∧
    ((s.cause = none → readReg .cause s = 0#32) ∧ (s.cause = some .illegalOpcode → readReg .cause s = 1#32) ∧
     (s.cause = some .context → readReg .cause s = 2#32) ∧ (s.cause = some .reservedField → readReg .cause s = 3#32) ∧
     (s.cause = some .unitRange → readReg .cause s = 4#32) ∧ (s.cause = some .regAddr → readReg .cause s = 5#32) ∧
     (s.cause = some .regRo → readReg .cause s = 6#32) ∧ (s.cause = some .badValue → readReg .cause s = 7#32) ∧
     (s.cause = some .progOverrun → readReg .cause s = 8#32)) ∧
    (readReg .errWord s = s.errWord ∧ readReg .errPc s = s.errPc ∧ readReg .fs s = s.fs ∧
     readReg .frameCnt s = s.frameCnt ∧ readReg .finL s = s.finL ∧ readReg .finR s = s.finR ∧
     readReg .foutL s = s.foutL ∧ readReg .foutR s = s.foutR) ∧
    (∀ i : Fin 16, readReg (.x i) s = s.x[i]) ∧ (∀ i : Fin 256, readReg (.pmem i) s = s.pmem[i]) ∧
    (∀ l : Fin 44,
      readReg (.dlMaxMs l) s = s.lines[l].maxMs ∧ readReg (.dlLenMs l) s = s.lines[l].lenMs ∧
      readReg (.dlCap l) s = BitVec.ofNat 32 s.lines[l].cap ∧ readReg (.dlLen l) s = s.lines[l].len ∧
      readReg (.dlWptr l) s = BitVec.ofNat 32 s.lines[l].wptr) ∧
    (∀ f : Fin 32,
      readReg (.fltKind f) s = kindCode s.filters[f].kind ∧ readReg (.fltFc f) s = s.filters[f].fc ∧
      readReg (.fltP f) s = s.filters[f].p ∧ readReg (.fltB0 f) s = s.filters[f].co.b0 ∧
      readReg (.fltB1 f) s = s.filters[f].co.b1 ∧ readReg (.fltB2 f) s = s.filters[f].co.b2 ∧
      readReg (.fltA1 f) s = s.filters[f].co.a1 ∧ readReg (.fltA2 f) s = s.filters[f].co.a2 ∧
      readReg (.fltS1 f) s = s.filters[f].s1 ∧ readReg (.fltS2 f) s = s.filters[f].s2) ∧
    (∀ c : Fin 16, readReg (.cbFb c) s = s.combs[c].fb ∧ readReg (.cbMk c) s = s.combs[c].makeup) ∧
    (∀ b : Fin 2,
      readReg (.cbDecay b) s = s.banks[b].decay ∧ readReg (.cbDampKind b) s = kindCode s.banks[b].dampKind ∧
      readReg (.cbSignMode b) s = (if s.banks[b].signMode = .alternate then 0#32 else 1#32) ∧
      readReg (.cbDampFc b) s = s.banks[b].dampFc) ∧
    (∀ ch : Fin 4,
      readReg (.apG ch) s = s.chains[ch].g ∧
      readReg (.apMode ch) s = if s.chains[ch].mode = .canonical then 0#32 else 1#32) ∧
    (readReg .fdnRoom s = s.fdn.room ∧ (readReg .fdnRoomSel s).toNat = s.fdn.roomSel.toNat ∧
     readReg .fdnDecay s = s.fdn.decay ∧ readReg .fdnSpread s = s.fdn.spread ∧
     readReg .fdnMixMode s =
       (if s.fdn.mixMode = .first then 0#32 else if s.fdn.mixMode = .split then 1#32 else 2#32) ∧
     readReg .fdnModDepth s = s.fdn.modDepth ∧ readReg .fdnDampKind s = kindCode s.fdn.dampKind ∧
     readReg .fdnDampFc s = s.fdn.dampFc ∧ readReg .fdnMods s = s.fdn.mods) ∧
    (∀ i : Fin 8, readReg (.fdnG i) s = s.fdn.g[i]) ∧ KindCodes

/-- INIT: every line reallocated, emptied and its length recomputed, every filter's coefficients recomputed and its state
cleared, every comb gain, FDN gain and the modulation excursion recomputed; CLAMP set exactly when one of them clamps;
nothing else changed (R183; spec/10_state.md R50, R51; spec/43_comb.md R300 to R302; spec/45_fdn.md R362, R363). -/
def Obligations.InitCommand : Prop :=
  (∀ s : State, s.pc = none →
    ∃ t, exec .init s = .next t ∧
      { t with lines := s.lines, filters := s.filters, combs := s.combs, fdn := s.fdn, clamp := s.clamp } = s ∧
      (∀ l : Fin 44,
        let cap := (capCalc s.fs l s.lines[l].maxMs).1
        t.lines[l] = { s.lines[l] with
          cap := cap, len := (lenCalc s.fs s.fdn.room l s.lines[l].lenMs cap).1, wptr := 0, buf := [] }) ∧
      (∀ f : Fin 32,
        t.filters[f] = { s.filters[f] with
          co := (coefCalc s.fs s.filters[f]).1, s1 := F32.zero, s2 := F32.zero }) ∧
      (∀ c : Fin 16,
        let m := capGain (decayLaw s.fs t.lines[cbl c].len s.banks[bankOf c].decay)
        let neg := if s.banks[bankOf c].signMode = .alternate then c.val % 2 = 1 else c.val % 8 ≠ 0
        t.combs[c] = { s.combs[c] with fb := if neg then F32.neg m else m }) ∧
      t.fdn = { s.fdn with
        g := t.fdn.g
        mods := F32.div (F32.mul (F32.mul s.fdn.modDepth F32.one) s.fs) F32.c1000 } ∧
      (∀ i : Fin 8, t.fdn.g[i] = capGain (decayLaw s.fs t.lines[fdl i].len s.fdn.decay)) ∧
      (t.clamp = true ↔
        s.clamp = true ∨ (∃ l : Fin 44, (capCalc s.fs l s.lines[l].maxMs).2 = true) ∨
        (∃ l : Fin 44, (lenCalc s.fs s.fdn.room l s.lines[l].lenMs t.lines[l].cap).2 = true) ∨
        (∃ f : Fin 32, (coefCalc s.fs s.filters[f]).2 = true) ∨
        (∃ c : Fin 16, F32.lt F32.gmax (decayLaw s.fs t.lines[cbl c].len s.banks[bankOf c].decay) = true) ∨
        ∃ i : Fin 8, F32.lt F32.gmax (decayLaw s.fs t.lines[fdl i].len s.fdn.decay) = true)) ∧
  (∀ (fs ms : F32) (l : Fin 44),
    let p := F32.div (F32.mul ms fs) F32.c1000
    F32.isFinite p = true → F32.isNeg p = false →
      let n := (F32.mag p + (2 ^ 149 - 1)) / 2 ^ 149 + 1
      let limit := if l.val < 4 then 32768 else if l.val < 20 then 8192 else if l.val < 36 then 4096 else 16384
      capCalc fs l ms = (max 2 (min n limit), decide (limit < n))) ∧
  encode .init = [0x04000000#32] ∧
  ∀ (w : Word) (ws : List Word), opField w = 0x04#8 → w.extractLsb' 0 24 ≠ 0#24 →
    decode (w :: ws) = .error (.reservedField w)

/-- PLOAD, whole, and FRAME but for the run of its program: PLOAD stores its word unchecked or raises UNIT_RANGE; FRAME
stores its sanitised input, clears the output frame, runs the program from PMEM[0], counts the frame and emits the output
frame; encodings, reserved bits (R184, R185). The run is RunProgramRunsTheDecodedCommand, and that it ends is
FrameProgramEnds. -/
def Obligations.PloadAndFrameCommands : Prop :=
  (∀ (a : BitVec 16) (p : Word) (s : State), s.pc = none →
    (∀ h : a.toNat < 256, exec (.pload a p) s = .next { s with pmem := s.pmem.set a.toNat p }) ∧
    (256 ≤ a.toNat → exec (.pload a p) s = .next (recordError .unitRange (Instr.header (.pload a p)) s))) ∧
  (∀ (l r : Word) (s : State), s.pc = none →
    ∃ u, runProgram 257 { s with
          finL := F32.sanitise l, finR := F32.sanitise r, foutL := F32.zero, foutR := F32.zero, pc := some 0 } =
        .next u ∧
      exec (.frame l r) s =
        .next { u with pc := none, frameCnt := u.frameCnt + 1#32, rsp := u.rsp ++ [u.foutL, u.foutR] }) ∧
  (∀ (a : BitVec 16) (p l r : Word),
    encode (.pload a p) = [BitVec.ofNat 32 (0x05000000 + a.toNat), p] ∧
    encode (.frame l r) = [0x06000000#32, l, r]) ∧
  ∀ (w d e : Word) (ws : List Word),
    (opField w = 0x05#8 → w.extractLsb' 16 8 ≠ 0#8 → decode (w :: d :: ws) = .error (.reservedField w)) ∧
    (opField w = 0x06#8 → w.extractLsb' 0 24 ≠ 0#24 → decode (w :: d :: e :: ws) = .error (.reservedField w))

/-! ### The write rules of the registers (spec/10_state.md) -/

/-- WREG to STATUS clears the flags whose bits are 1, to CTRL stores the two enables, to a sample register stores S(v),
and to FS stores the clamped rate and then does exactly what INIT does at that rate (R38, R40, R41, R43). -/
def Obligations.WriteGlobalRegisters : Prop :=
  (∀ (v : Word) (s : State), s.pc = none →
    exec (.wreg (regAddr .status) v) s =
      .next { s with err := s.err && !v.getLsbD 0, clamp := s.clamp && !v.getLsbD 1 }) ∧
  (∀ (v : Word) (s : State), s.pc = none → v.toNat ≤ 3 →
    exec (.wreg (regAddr .ctrl) v) s = .next { s with errIe := v.getLsbD 0, clampIe := v.getLsbD 1 }) ∧
  (∀ (i : Fin 16) (v : Word) (s : State), s.pc = none →
    exec (.wreg (regAddr (.x i)) v) s =
      .next { s with x := s.x.set i (F32.sanitise v), clamp := s.clamp || writeClamps v (F32.sanitise v) }) ∧
  ∀ (v : Word) (s : State), s.pc = none →
    exec (.wreg (regAddr .fs) v) s =
      exec .init { s with
        fs := F32.clampR v F32.c8000 F32.c192000
        clamp := s.clamp || writeClamps v (F32.clampR v F32.c8000 F32.c192000) }

/-- WREG to DL_MAXMS stores the clamped value and nothing else; WREG to DL_LENMS stores it and recomputes the length of
that line and the gain of the comb unit or FDN line that owns it, with the room size and stereo offset of the line's
class; the buffer and the cursor are unchanged (R48, R49, R50; spec/43_comb.md R302; spec/45_fdn.md R361, R362). -/
def Obligations.WriteDelayLineRegisters : Prop :=
  (∀ (l : Fin 44) (v : Word) (s : State), s.pc = none →
    let v' := F32.clampR v F32.zero F32.c100000
    exec (.wreg (regAddr (.dlMaxMs l)) v) s =
      .next { s with
        lines := s.lines.set l { s.lines[l] with maxMs := v' }
        clamp := s.clamp || writeClamps v v' }) ∧
  (∀ (l : Fin 44) (v : Word) (s : State), s.pc = none →
    let v' := F32.clampR v F32.zero F32.c100000
    let ms :=
      if 36 ≤ l.val then F32.mul v' s.fdn.room
      else if (12 ≤ l.val ∧ l.val < 20) ∨ (24 ≤ l.val ∧ l.val < 28) ∨ (32 ≤ l.val ∧ l.val < 36) then
        F32.add v' stereoSpreadMs
      else v'
    let len := F32.div (F32.mul ms s.fs) F32.c1000
    let top := F32.ofNat (s.lines[l].cap - 1)
    let low := if F32.lt top len then top else len
    let len' := if F32.lt low F32.one then F32.one else low
    ∃ t, exec (.wreg (regAddr (.dlLenMs l)) v) s = .next t ∧
      { t with lines := s.lines, combs := s.combs, fdn := s.fdn, clamp := s.clamp } = s ∧
      t.lines = s.lines.set l { s.lines[l] with lenMs := v', len := len' } ∧
      (∀ c : Fin 16,
        let m := capGain (decayLaw s.fs len' s.banks[bankOf c].decay)
        let neg := if s.banks[bankOf c].signMode = .alternate then c.val % 2 = 1 else c.val % 8 ≠ 0
        t.combs[c] = if cbl c = l then { s.combs[c] with fb := if neg then F32.neg m else m } else s.combs[c]) ∧
      t.fdn = { s.fdn with g := t.fdn.g } ∧
      (∀ i : Fin 8,
        t.fdn.g[i] = if fdl i = l then capGain (decayLaw s.fs len' s.fdn.decay) else s.fdn.g[i]) ∧
      (t.clamp = true ↔
        s.clamp = true ∨ writeClamps v v' = true ∨ F32.lt top len = true ∨
        (∃ c : Fin 16, cbl c = l ∧ F32.lt F32.gmax (decayLaw s.fs len' s.banks[bankOf c].decay) = true) ∨
        ∃ i : Fin 8, fdl i = l ∧ F32.lt F32.gmax (decayLaw s.fs len' s.fdn.decay) = true))

/-- WREG to FLT_KIND, FLT_FC and FLT_P stores the value and recomputes that filter's coefficients by COEFCALC; its state
words and everything else are unchanged; the kinds have the codes 0 to 7 (R54, R55, R56, R57; spec/42_filters.md R261,
R269). -/
def Obligations.WriteFilterParameters : Prop :=
  KindCodes ∧
  (∀ (f : Fin 32) (k : FilterKind) (s : State), s.pc = none →
    let g : Filter := { s.filters[f] with kind := k }
    exec (.wreg (regAddr (.fltKind f)) (kindCode k)) s =
      .next { s with
        filters := s.filters.set f { g with co := (coefCalc s.fs g).1 }
        clamp := s.clamp || (coefCalc s.fs g).2 }) ∧
  (∀ (f : Fin 32) (v : Word) (s : State), s.pc = none →
    let v' := F32.clampR v F32.c20 F32.c20000
    let g : Filter := { s.filters[f] with fc := v' }
    exec (.wreg (regAddr (.fltFc f)) v) s =
      .next { s with
        filters := s.filters.set f { g with co := (coefCalc s.fs g).1 }
        clamp := s.clamp || writeClamps v v' || (coefCalc s.fs g).2 }) ∧
  ∀ (f : Fin 32) (v : Word) (s : State), s.pc = none →
    let v' := F32.clampR v F32.zero F32.one
    let g : Filter := { s.filters[f] with p := v' }
    exec (.wreg (regAddr (.fltP f)) v) s =
      .next { s with
        filters := s.filters.set f { g with co := (coefCalc s.fs g).1 }
        clamp := s.clamp || writeClamps v v' || (coefCalc s.fs g).2 }

/-- WREG to a coefficient stores S(v) in that one coefficient and makes the filter RAW; a RAW filter keeps its
coefficients through INIT and a write to FS, and through writes to its own FLT_FC and FLT_P (R58;
spec/42_filters.md R267). -/
def Obligations.RawCoefficientsStand : Prop :=
  (∀ (f : Fin 32) (v : Word) (s : State), s.pc = none →
    let w := F32.sanitise v
    let g := s.filters[f]
    let done : Coefs → State := fun co =>
      { s with filters := s.filters.set f { g with co := co, kind := .raw }, clamp := s.clamp || writeClamps v w }
    exec (.wreg (regAddr (.fltB0 f)) v) s = .next (done { g.co with b0 := w }) ∧
    exec (.wreg (regAddr (.fltB1 f)) v) s = .next (done { g.co with b1 := w }) ∧
    exec (.wreg (regAddr (.fltB2 f)) v) s = .next (done { g.co with b2 := w }) ∧
    exec (.wreg (regAddr (.fltA1 f)) v) s = .next (done { g.co with a1 := w }) ∧
    exec (.wreg (regAddr (.fltA2 f)) v) s = .next (done { g.co with a2 := w })) ∧
  ∀ (f : Fin 32) (v : Word) (s t : State) (i : Instr), s.pc = none → s.filters[f].kind = .raw →
    i = .init ∨ i = .wreg (regAddr .fs) v ∨ i = .wreg (regAddr (.fltFc f)) v ∨ i = .wreg (regAddr (.fltP f)) v →
    exec i s = .next t → t.filters[f].co = s.filters[f].co ∧ t.filters[f].kind = .raw

/-- WREG to CB_FB and CB_MK stores the value alone; WREG to CB_DECAY and CB_SIGNMODE recomputes the gain of every unit of
that bank and of no other; WREG to AP_G and AP_MODE stores the value alone (R61 to R64, R67, R68;
spec/43_comb.md R301, R302); the sign modes and the all-pass modes have the codes 0 and 1. -/
def Obligations.WriteCombAndAllPassRegisters : Prop :=
  (signModeCode .alternate = 0#32 ∧ signModeCode .firstPositive = 1#32 ∧ apModeCode .canonical = 0#32 ∧
    apModeCode .literal = 1#32) ∧
  (∀ (c : Fin 16) (v : Word) (s : State), s.pc = none →
    let fb := F32.clampR v F32.negGmax F32.gmax
    let mk := F32.sanitise v
    exec (.wreg (regAddr (.cbFb c)) v) s =
      .next { s with combs := s.combs.set c { s.combs[c] with fb := fb }, clamp := s.clamp || writeClamps v fb } ∧
    exec (.wreg (regAddr (.cbMk c)) v) s =
      .next { s with
        combs := s.combs.set c { s.combs[c] with makeup := mk }, clamp := s.clamp || writeClamps v mk }) ∧
  (∀ (b : Fin 2) (v : Word) (m : SignMode) (s : State), s.pc = none →
    let v' := F32.clampR v F32.c0_01 F32.c1000
    (∃ t, exec (.wreg (regAddr (.cbDecay b)) v) s = .next t ∧
      { t with banks := s.banks, combs := s.combs, clamp := s.clamp } = s ∧
      t.banks = s.banks.set b { s.banks[b] with decay := v' } ∧
      (∀ c : Fin 16,
        let g := capGain (decayLaw s.fs s.lines[cbl c].len v')
        let neg := if s.banks[b].signMode = .alternate then c.val % 2 = 1 else c.val % 8 ≠ 0
        t.combs[c] = if bankOf c = b then { s.combs[c] with fb := if neg then F32.neg g else g } else s.combs[c]) ∧
      (t.clamp = true ↔ s.clamp = true ∨ writeClamps v v' = true ∨
        ∃ c : Fin 16, bankOf c = b ∧ F32.lt F32.gmax (decayLaw s.fs s.lines[cbl c].len v') = true)) ∧
    ∃ t, exec (.wreg (regAddr (.cbSignMode b)) (signModeCode m)) s = .next t ∧
      { t with banks := s.banks, combs := s.combs, clamp := s.clamp } = s ∧
      t.banks = s.banks.set b { s.banks[b] with signMode := m } ∧
      (∀ c : Fin 16,
        let g := capGain (decayLaw s.fs s.lines[cbl c].len s.banks[b].decay)
        let neg := if m = .alternate then c.val % 2 = 1 else c.val % 8 ≠ 0
        t.combs[c] = if bankOf c = b then { s.combs[c] with fb := if neg then F32.neg g else g } else s.combs[c]) ∧
      (t.clamp = true ↔ s.clamp = true ∨
        ∃ c : Fin 16, bankOf c = b ∧ F32.lt F32.gmax (decayLaw s.fs s.lines[cbl c].len s.banks[b].decay) = true)) ∧
  ∀ (ch : Fin 4) (v : Word) (m : ApMode) (s : State), s.pc = none →
    let g := F32.clampR v F32.negGmax F32.gmax
    exec (.wreg (regAddr (.apG ch)) v) s =
      .next { s with chains := s.chains.set ch { s.chains[ch] with g := g }, clamp := s.clamp || writeClamps v g } ∧
    exec (.wreg (regAddr (.apMode ch)) (apModeCode m)) s =
      .next { s with chains := s.chains.set ch { s.chains[ch] with mode := m } }

/-- The broadcast writes: every damping filter of the bank, or of the FDN, becomes what a WREG of the same value to its
own FLT_KIND or FLT_FC makes it, CLAMP is set when one of those would set it, every other filter is unchanged, and the
register itself keeps the value; the kinds have the codes 0 to 7 (R54, R65, R66, R77, R78). -/
def Obligations.DampingWritesAreBroadcast : Prop :=
  KindCodes ∧
  (∀ (b : Fin 2) (v : Word) (k : FilterKind) (s : State), s.pc = none →
    (∃ t, exec (.wreg (regAddr (.cbDampKind b)) (kindCode k)) s = .next t ∧
      { t with banks := s.banks, filters := s.filters, clamp := s.clamp } = s ∧
      t.banks = s.banks.set b { s.banks[b] with dampKind := k } ∧
      (∀ c u, bankOf c = b → exec (.wreg (regAddr (.fltKind (cbf c))) (kindCode k)) s = .next u →
        t.filters[cbf c] = u.filters[cbf c]) ∧
      (t.clamp = true ↔ ∃ c u, bankOf c = b ∧
        exec (.wreg (regAddr (.fltKind (cbf c))) (kindCode k)) s = .next u ∧ u.clamp = true) ∧
      ∀ f : Fin 32, (∀ c, bankOf c = b → f ≠ cbf c) → t.filters[f] = s.filters[f]) ∧
    ∃ t, exec (.wreg (regAddr (.cbDampFc b)) v) s = .next t ∧
      { t with banks := s.banks, filters := s.filters, clamp := s.clamp } = s ∧
      t.banks = s.banks.set b { s.banks[b] with dampFc := F32.clampR v F32.c20 F32.c20000 } ∧
      (∀ c u, bankOf c = b → exec (.wreg (regAddr (.fltFc (cbf c))) v) s = .next u →
        t.filters[cbf c] = u.filters[cbf c]) ∧
      (t.clamp = true ↔ ∃ c u, bankOf c = b ∧
        exec (.wreg (regAddr (.fltFc (cbf c))) v) s = .next u ∧ u.clamp = true) ∧
      ∀ f : Fin 32, (∀ c, bankOf c = b → f ≠ cbf c) → t.filters[f] = s.filters[f]) ∧
  ∀ (v : Word) (k : FilterKind) (s : State), s.pc = none →
    (∃ t, exec (.wreg (regAddr .fdnDampKind) (kindCode k)) s = .next t ∧
      { t with fdn := s.fdn, filters := s.filters, clamp := s.clamp } = s ∧
      t.fdn = { s.fdn with dampKind := k } ∧
      (∀ i u, exec (.wreg (regAddr (.fltKind (fdf i))) (kindCode k)) s = .next u →
        t.filters[fdf i] = u.filters[fdf i]) ∧
      (t.clamp = true ↔ ∃ i u, exec (.wreg (regAddr (.fltKind (fdf i))) (kindCode k)) s = .next u ∧
        u.clamp = true) ∧
      ∀ f : Fin 32, (∀ i, f ≠ fdf i) → t.filters[f] = s.filters[f]) ∧
    ∃ t, exec (.wreg (regAddr .fdnDampFc) v) s = .next t ∧
      { t with fdn := s.fdn, filters := s.filters, clamp := s.clamp } = s ∧
      t.fdn = { s.fdn with dampFc := F32.clampR v F32.c20 F32.c20000 } ∧
      (∀ i u, exec (.wreg (regAddr (.fltFc (fdf i))) v) s = .next u → t.filters[fdf i] = u.filters[fdf i]) ∧
      (t.clamp = true ↔ ∃ i u, exec (.wreg (regAddr (.fltFc (fdf i))) v) s = .next u ∧ u.clamp = true) ∧
      ∀ f : Fin 32, (∀ i, f ≠ fdf i) → t.filters[f] = s.filters[f]

/-- WREG to the FDN's scalars: FDN_ROOM recomputes the lengths and then the gains of the FDN's lines and of no other,
FDN_DECAY the gains, FDN_MODDEPTH the excursion; FDN_SPREAD, FDN_MIXMODE and FDN_ROOMSEL store alone; the mix modes have
the codes 0 to 2 (R71 to R76; spec/45_fdn.md R361 to R363, R365). -/
def Obligations.WriteFdnRegisters : Prop :=
  (mixModeCode .first = 0#32 ∧ mixModeCode .split = 1#32 ∧ mixModeCode .all = 2#32) ∧
  ∀ (v : Word) (m : MixMode) (s : State), s.pc = none →
    let unit := F32.clampR v F32.zero F32.one
    let dec := F32.clampR v F32.c0_01 F32.c1000
    (∃ t, exec (.wreg (regAddr .fdnRoom) v) s = .next t ∧
      { t with lines := s.lines, fdn := s.fdn, clamp := s.clamp } = s ∧
      (∀ l : Fin 44, l.val < 36 → t.lines[l] = s.lines[l]) ∧
      (∀ i : Fin 8,
        t.lines[fdl i] = { s.lines[fdl i] with
          len := (lenCalc s.fs unit (fdl i) s.lines[fdl i].lenMs s.lines[fdl i].cap).1 } ∧
        t.fdn.g[i] = capGain (decayLaw s.fs t.lines[fdl i].len s.fdn.decay)) ∧
      t.fdn = { s.fdn with room := unit, g := t.fdn.g } ∧
      (t.clamp = true ↔ s.clamp = true ∨ writeClamps v unit = true ∨
        ∃ i : Fin 8, (lenCalc s.fs unit (fdl i) s.lines[fdl i].lenMs s.lines[fdl i].cap).2 = true ∨
          F32.lt F32.gmax (decayLaw s.fs t.lines[fdl i].len s.fdn.decay) = true)) ∧
    (∃ t, exec (.wreg (regAddr .fdnDecay) v) s = .next t ∧ { t with fdn := s.fdn, clamp := s.clamp } = s ∧
      t.fdn = { s.fdn with decay := dec, g := t.fdn.g } ∧
      (∀ i : Fin 8, t.fdn.g[i] = capGain (decayLaw s.fs s.lines[fdl i].len dec)) ∧
      (t.clamp = true ↔ s.clamp = true ∨ writeClamps v dec = true ∨
        ∃ i : Fin 8, F32.lt F32.gmax (decayLaw s.fs s.lines[fdl i].len dec) = true)) ∧
    exec (.wreg (regAddr .fdnModDepth) v) s =
      .next { s with
        fdn := { s.fdn with
          modDepth := unit, mods := F32.div (F32.mul (F32.mul unit F32.one) s.fs) F32.c1000 }
        clamp := s.clamp || writeClamps v unit } ∧
    exec (.wreg (regAddr .fdnSpread) v) s =
      .next { s with fdn := { s.fdn with spread := unit }, clamp := s.clamp || writeClamps v unit } ∧
    exec (.wreg (regAddr .fdnMixMode) (mixModeCode m)) s = .next { s with fdn := { s.fdn with mixMode := m } } ∧
    exec (.wreg (regAddr .fdnRoomSel) 0#32) s = .next { s with fdn := { s.fdn with roomSel := 0#6 } }

/-! ### Errors, flags and contexts (spec/60_exceptions.md) -/

/-- The error record, whole: the first error since ERR was last 0 is kept, later ones only keep ERR at 1; nothing else
changes (R404). -/
def Obligations.RecordErrorRule : Prop :=
  ∀ (k : Cause) (w : Word) (s : State),
    (s.err = false → s.pc = none →
      recordError k w s = { s with err := true, cause := some k, errWord := w, errPc := 0xFFFFFFFF#32 }) ∧
    (∀ p, s.err = false → s.pc = some p →
      recordError k w s = { s with err := true, cause := some k, errWord := w, errPc := BitVec.ofNat 32 p }) ∧
    (s.err = true → recordError k w s = s)

/-- A command that fails one of the checks that depend on it alone has exactly the effect of recording that cause with
its header (and a failed RREG its one word); a host-only command in a frame program records CONTEXT whatever else is
wrong with it (R401, R402, R403, R410). -/
def Obligations.CommandErrorIsRecorded : Prop :=
  ∀ (i : Instr) (s : State) (k : Cause),
    (s.pc = none → i.staticError = some k →
      exec i s = .next (let t := recordError k i.header s
        { t with rsp := t.rsp ++ if i.opcode = .rreg then [0#32] else [] })) ∧
    (∀ p, s.pc = some p → i.opcode.hostOnly = true → exec i s = .next (recordError .context i.header s)) ∧
    ∀ p, s.pc = some p → i.opcode.hostOnly = false → i.staticError = some k →
      exec i s = .next (recordError k i.header s)

/-- No command and no step ever stops the machine, and a command that fails no check records no error; the errors of a
FRAME are its program's (R400, R405, R416). -/
def Obligations.EveryCommandCompletes : Prop :=
  (∀ (i : Instr) (s : State), ∃ t, exec i s = .next t) ∧ (∀ s : State, ∃ t, step s = .next t) ∧
  ∀ (i : Instr) (s t : State), i.staticError = none → i.opcode ≠ .frame → s.pc = none ∨ i.opcode.hostOnly = false →
    exec i s = .next t →
    (t.err = true → s.err = true) ∧ t.cause = s.cause ∧ t.errWord = s.errWord ∧ t.errPc = s.errPc

/-- Both flags are sticky: only a WREG to STATUS clears one; and while ERR is 1 no command changes the record
(spec/10_state.md R38, R39; R408). -/
def Obligations.FlagsAndRecordAreSticky : Prop :=
  ∀ (i : Instr) (s t : State), exec i s = .next t →
    ((∀ v, i ≠ .wreg (regAddr .status) v) → (s.err = true → t.err = true) ∧ (s.clamp = true → t.clamp = true)) ∧
    (s.err = true → t.cause = s.cause ∧ t.errWord = s.errWord ∧ t.errPc = s.errPc)

/-- No datapath command with a unit in range changes a flag, the error record, a setting, the PC, the program, a response
or the IRQ level, whatever its operand values are (R416; spec/10_state.md R80). -/
def Obligations.DatapathNeverSetsFlags : Prop :=
  ∀ (i : Instr) (s : State), i.opcode.hostOnly = false → i ≠ .endProg → i.unitOk = true →
    ∃ t, exec i s = .next t ∧ SameConfiguration s t ∧ t.err = s.err ∧ t.clamp = s.clamp ∧ t.cause = s.cause ∧
      t.errWord = s.errWord ∧ t.errPc = s.errPc ∧ t.pc = s.pc ∧ t.frameCnt = s.frameCnt ∧ t.rsp = s.rsp ∧
      t.hostIn = s.hostIn ∧ t.irq = s.irq ∧ t.finL = s.finL ∧ t.finR = s.finR

/-- A frame program cannot change configuration, reallocate a buffer, rewrite itself, set CLAMP, take a host word, emit a
response, count a frame or change the input frame: no run of one does, and so no FRAME changes configuration; and IRQ
follows the flags through a run (R406, R410; spec/20_memory.md R113). -/
def Obligations.ProgramCannotChangeConfiguration : Prop :=
  (∀ (n : Nat) (s t : State), runProgram n s = .next t →
    SameConfiguration s t ∧ t.clamp = s.clamp ∧ t.hostIn = s.hostIn ∧ t.rsp = s.rsp ∧ t.frameCnt = s.frameCnt ∧
      t.finL = s.finL ∧ t.finR = s.finR ∧ (s.irq = irqLevel s → t.irq = irqLevel t)) ∧
  ∀ (l r : Word) (s t : State), exec (.frame l r) s = .next t →
    SameConfiguration s t ∧ t.clamp = s.clamp ∧ t.hostIn = s.hostIn

/-- Which commands write which memory: PMEM only PLOAD; buffers and cursors only the delay-line writes, INIT, a write to
FS, and FRAME by its program; filter states only the filter steps, INIT, a write to FS, and FRAME by its program; the
frame registers only FRAME and OUT; FRAMECNT only FRAME (spec/20_memory.md R102, R103; spec/10_state.md R34, R42, R44,
R59). -/
def Obligations.OnlyTheirCommandsWriteMemory : Prop :=
  ∀ (i : Instr) (s t : State), exec i s = .next t →
    (i.opcode ≠ .pload → t.pmem = s.pmem) ∧
    (i.opcode ≠ .init → i.opcode ≠ .frame → (∀ v, i ≠ .wreg (regAddr .fs) v) →
      (i.opcode ≠ .dlWr → i.opcode ≠ .dlProc → i.opcode ≠ .combProc → i.opcode ≠ .cbProc → i.opcode ≠ .apProc →
        i.opcode ≠ .apcProc → i.opcode ≠ .fdnProc →
        ∀ l : Fin 44, t.lines[l].buf = s.lines[l].buf ∧ t.lines[l].wptr = s.lines[l].wptr) ∧
      (i.opcode ≠ .fltProc → i.opcode ≠ .combProc → i.opcode ≠ .cbProc → i.opcode ≠ .fdnProc →
        ∀ f : Fin 32, t.filters[f].s1 = s.filters[f].s1 ∧ t.filters[f].s2 = s.filters[f].s2)) ∧
    (i.opcode ≠ .frame → t.finL = s.finL ∧ t.finR = s.finR ∧
      (i.opcode ≠ .out → t.foutL = s.foutL ∧ t.foutR = s.foutR)) ∧
    (i.opcode ≠ .frame → t.frameCnt = s.frameCnt)

/-- IRQ = (ERR and ERRIE) or (CLAMP and CLAMPIE), and it is re-evaluated after every command of the host stream, a FRAME
being one (R406; spec/20_memory.md R106; after every command inside a FRAME too, which is FrameProgramEnds). That IRQ keeps
its level while a failed RREG or a failed FRAME header waits at an emit, and is re-evaluated when the host takes the word
it waited for, is the model's (notes/assumptions/6.md). -/
def Obligations.IrqFollowsFlagsAndEnables : Prop :=
  (∀ s : State, irqLevel s = true ↔ (s.err = true ∧ s.errIe = true) ∨ (s.clamp = true ∧ s.clampIe = true)) ∧
  (∀ s t : State, IrqOk s → step s = .next t → IrqOk t) ∧
  (∀ (s t : State) (w : Word), IrqOk s → hostTake s = some (w, t) → IrqOk t) ∧
  ∀ (s : State) (w : Word), IrqOk s → IrqOk (hostSend w s)

/-! ### Arithmetic (spec/00_scope.md) -/

/-- Binary32 addition of finite values is the exact sum rounded to nearest, ties to even; an exact zero sum is -0.0 only
for two negative operands (R9). -/
def Obligations.AddRoundsToNearestEven : Prop :=
  ∀ a b : F32, F32.isFinite a = true → F32.isFinite b = true →
    NearestEven (F32.val a + F32.val b) 1 (F32.add a b) ∧
    (F32.val a + F32.val b = 0 →
      F32.add a b = if F32.isNeg a = true ∧ F32.isNeg b = true then 0x80000000#32 else F32.zero)

/-- Binary32 multiplication and division of finite values are the exact product and quotient rounded to nearest, ties to
even; the sign of the result is the exclusive-or of the operand signs, also of a zero or an overflow (R9). -/
def Obligations.MulAndDivRoundToNearestEven : Prop :=
  ∀ a b : F32, F32.isFinite a = true → F32.isFinite b = true →
    NearestEven (F32.val a * F32.val b) (2 ^ 149) (F32.mul a b) ∧
    F32.isNeg (F32.mul a b) = (F32.isNeg a != F32.isNeg b) ∧
    (F32.isZero b = false →
      NearestEven ((if F32.isNeg b then -F32.val a else F32.val a) * 2 ^ 149) (F32.mag b) (F32.div a b) ∧
      F32.isNeg (F32.div a b) = (F32.isNeg a != F32.isNeg b))

/-- The sanitiser S and the clamp clampR, by cases; S always answers a finite value, and clampR with numbers lo <= hi
always answers a number in [lo, hi] (R10, R11). -/
def Obligations.SanitiserAndClampRules : Prop :=
  (∀ v : F32,
    (F32.isNaN v = true → F32.sanitise v = 0x00000000#32) ∧
    (F32.isFinite v = true → F32.sanitise v = v) ∧ F32.isFinite (F32.sanitise v) = true) ∧
  (F32.sanitise 0x7F800000#32 = 0x7F7FFFFF#32 ∧ F32.sanitise 0xFF800000#32 = 0xFF7FFFFF#32) ∧
  ∀ v lo hi : F32, F32.isNaN lo = false → F32.isNaN hi = false → F32.lt hi lo = false →
    (F32.isNaN v = true ∨ F32.lt v lo = true → F32.clampR v lo hi = lo) ∧
    (F32.lt hi v = true → F32.clampR v lo hi = hi) ∧
    (InRange lo hi v → F32.clampR v lo hi = v) ∧ InRange lo hi (F32.clampR v lo hi)

/-! ### Reset and invariants (spec/70_reset_and_hazards.md, spec/10_state.md) -/

/-- What every register reads as right after reset (R443; spec/10_state.md R46, R52, R61, R70). Where the value depends on
an OPEN parameter it is stated through that parameter: DL_LEN of right-channel lines through STEREO_SPREAD_MS, whose
finiteness is the model's (notes/assumptions/2.md), CB_FB and FDN_G through pow10. -/
def Obligations.ResetRegisterValues : Prop :=
  let s := State.reset
  (∀ i : Fin 16, readReg (.x i) s = 0#32) ∧
  (readReg .id s = 0x464F5843#32 ∧ readReg .version s = 0x00000007#32 ∧ readReg .config0 s = 0x08080204#32 ∧
   readReg .config1 s = 0x10080404#32 ∧ readReg .config2 s = 0x00000100#32) ∧
  (readReg .finL s = 0#32 ∧ readReg .finR s = 0#32 ∧ readReg .foutL s = 0#32 ∧ readReg .foutR s = 0#32) ∧
  s.pc = none ∧
  (readReg .status s = 0#32 ∧ readReg .cause s = 0#32 ∧ readReg .errWord s = 0#32 ∧ readReg .errPc s = 0#32 ∧
   readReg .ctrl s = 0#32 ∧ readReg .frameCnt s = 0#32 ∧ readReg .fs s = 0x472C4400#32) ∧
  (∀ i : Fin 256, readReg (.pmem i) s = 0#32) ∧
  (∀ l : Fin 44,
    readReg (.dlMaxMs l) s =
      (if l.val < 4 then 0x43FA0000#32 else if l.val < 20 then 0x42C80000#32
       else if l.val < 36 then 0x42480000#32 else 0x43960000#32) ∧
    readReg (.dlCap l) s =
      (if l.val < 4 then 22051#32 else if l.val < 20 then 4411#32 else if l.val < 36 then 2206#32 else 13231#32) ∧
    readReg (.dlLenMs l) s = 0#32 ∧ readReg (.dlWptr l) s = 0#32 ∧
    (let right := (12 ≤ l.val ∧ l.val < 20) ∨ (24 ≤ l.val ∧ l.val < 28) ∨ (32 ≤ l.val ∧ l.val < 36)
     let len := F32.div (F32.mul (F32.add F32.zero stereoSpreadMs) F32.c44100) F32.c1000
     let top := F32.ofNat (if l.val < 20 then 4410 else 2205)
     let low := if F32.lt top len then top else len
     readReg (.dlLen l) s = if right then (if F32.lt low F32.one then F32.one else low) else 0x3F800000#32) ∧
    ∀ j, memRead s.lines[l].buf j = F32.zero) ∧
  (∀ f : Fin 32,
    readReg (.fltKind f) s = 0#32 ∧ readReg (.fltFc f) s = 0x447A0000#32 ∧ readReg (.fltP f) s = 0x3F800000#32 ∧
    readReg (.fltB0 f) s = 0x3F800000#32 ∧ readReg (.fltB1 f) s = 0#32 ∧ readReg (.fltB2 f) s = 0#32 ∧
    readReg (.fltA1 f) s = 0#32 ∧ readReg (.fltA2 f) s = 0#32 ∧
    readReg (.fltS1 f) s = 0#32 ∧ readReg (.fltS2 f) s = 0#32) ∧
  (∀ c : Fin 16,
    (let m := capGain (decayLaw F32.c44100 (readReg (.dlLen (cbl c)) s) F32.one)
     readReg (.cbFb c) s = if c.val % 2 = 1 then F32.neg m else m) ∧
    readReg (.cbMk c) s = 0x3F800000#32) ∧
  (∀ b : Fin 2, readReg (.cbDecay b) s = 0x3F800000#32 ∧ readReg (.cbSignMode b) s = 0#32 ∧
    readReg (.cbDampKind b) s = 0#32 ∧ readReg (.cbDampFc b) s = 0x447A0000#32) ∧
  (∀ ch : Fin 4, readReg (.apG ch) s = 0#32 ∧ readReg (.apMode ch) s = 0#32) ∧
  (readReg .fdnRoom s = 0x3F800000#32 ∧ readReg .fdnRoomSel s = 0#32 ∧ readReg .fdnDecay s = 0x3F800000#32 ∧
   readReg .fdnSpread s = 0#32 ∧ readReg .fdnMixMode s = 0#32 ∧ readReg .fdnModDepth s = 0#32 ∧
   readReg .fdnDampKind s = 0#32 ∧ readReg .fdnDampFc s = 0x447A0000#32 ∧ readReg .fdnMods s = 0#32) ∧
  (∀ i : Fin 8, readReg (.fdnG i) s = capGain (decayLaw F32.c44100 F32.one F32.one)) ∧
  s.rsp = [] ∧ s.hostIn = [] ∧ s.irq = false

/-- The reset procedure gives the reset state from every state, also from the middle of a frame, a hold or a stall
(R440, R441, R442, R446). That whole commands which have arrived and are not yet taken are discarded with the partial one
is the model's (notes/assumptions/19.md). -/
def Obligations.AssertResetGivesTheResetState : Prop := ∀ s : State, assertReset s = State.reset

/-- Every step keeps every buffer well formed: capacity in [2, PHYS], cursor below it, no word beyond it
(spec/10_state.md R45; spec/20_memory.md R102). -/
def Obligations.EveryStepKeepsBuffersOk : Prop :=
  ∀ s t : State, BuffersOk s → step s = .next t → BuffersOk t

/-- Every step keeps every sample, buffer word, filter state and coefficient finite: NaN and infinities never arise, for
any words the host sends and any program (spec/00_scope.md R10; spec/60_exceptions.md R416). -/
def Obligations.EveryStepKeepsAudioFinite : Prop :=
  ∀ s t : State, AudioFinite s → step s = .next t → AudioFinite t

/-- Every step keeps every register with a range in it, and 1.0 <= DL_LEN <= DL_CAP - 1 on every line, for any words the
host sends and any program (spec/10_state.md R45, R41 to R78). CB_FB and FDN_G have the bound that the cap of the decay
law gives for every pow10: FDN_G and the CB_FB of units with a positive sign are not above GMAX, the CB_FB of units with a
negative sign not below -GMAX; the other bound, and that a derived gain is a number, would need a property of pow10
(notes/assumptions/1.md). That STEREO_SPREAD_MS is finite, which R5 implies, is the model's (notes/assumptions/2.md). -/
def Obligations.EveryStepKeepsRangesAndLengths : Prop :=
  ∀ s t : State, BuffersOk s ∧ RangesOk s ∧ LengthsOk s → step s = .next t → RangesOk t ∧ LengthsOk t

/-- Between commands no PC exists, because a FRAME runs whole, and every step keeps it so; and the response queue stays
within its bound (spec/10_state.md R33; spec/20_memory.md R106; spec/30_encoding.md R152; the bound on waiting words is
the model's, notes/assumptions/6.md). -/
def Obligations.EveryStepKeepsControlOk : Prop :=
  ∀ s t : State, ControlOk s → step s = .next t → ControlOk t

/-- The reset state meets every invariant (R443). That DL_LEN of the right-channel lines is in range rests on a finite
STEREO_SPREAD_MS, which is the model's choice (notes/assumptions/2.md). -/
def Obligations.ResetMeetsEveryInvariant : Prop :=
  BuffersOk State.reset ∧ AudioFinite State.reset ∧ RangesOk State.reset ∧ LengthsOk State.reset ∧
  ControlOk State.reset ∧ IrqOk State.reset
end

