-- ==== Sys2Proof/Laws/Comb.lean ====
section
/-! SUPPORT. The -60 dB property of a comb unit (spec/43_comb.md R303): the gain the machine derives, what one pass does
to the circulating word, and what the decay law gives in exact arithmetic. -/

namespace Sys2Proof.Machine

open Sys2Proof Sys2Proof.Safety

/-- The gain of a comb unit is the capped decay law with the unit's sign (R300 to R302). -/
theorem combGain_fst (fs len : F32) (bank : Bank) (k : Fin 8) :
    (combGain fs len bank k).1 =
      if signNegative bank.signMode k then F32.neg (capGain (decayLaw fs len bank.decay))
      else capGain (decayLaw fs len bank.decay) := rfl

/-- A pass of a unit whose damping filter lets the tap d through and whose input is +0.0 writes S(+0.0 + d*CB_FB): the
word that comes back has been multiplied by the gain once (R303, R304). -/
theorem combLine_pass {s : State} {c : Fin 16} (hd : combDamped s c = combTap s c) :
    combLine s c F32.zero =
      dlWrite s.lines[cbl c] (F32.add F32.zero (F32.mul (combTap s c) s.combs[c].fb)) := by
  rw [combLine, hd]

/-- In exact arithmetic the gain 10^(-3L/(T*FS)), applied once on each of the T*FS/L passes of T seconds, is 10^-3,
which is -60 dB (R303). -/
theorem decay_law_exact {len decay fs : ℝ} (hl : len ≠ 0) (ht : decay ≠ 0) (hf : fs ≠ 0) :
    ((10 : ℝ) ^ (-3 * len / (decay * fs))) ^ (decay * fs / len) = (10 : ℝ) ^ (-3 : ℝ) := by
  rw [← Real.rpow_mul (by norm_num)]
  congr 1
  field_simp

end Sys2Proof.Machine
end

