-- ==== Sys2Proof/Laws/Encoding.lean ====
section
/-! SUPPORT. What the header fields of an encoded command are (spec/30_encoding.md R141). -/

namespace Sys2Proof

/-- A field of a word, as a number. -/
theorem extract_toNat (w : Word) (start len : Nat) :
    (w.extractLsb' start len).toNat = w.toNat / 2 ^ start % 2 ^ len := by
  rw [BitVec.extractLsb'_toNat, Nat.shiftRight_eq_div_pow]

/-! ### The fields of a number -/

theorem fields_lt {o a b c u : Nat} (ho : o < 256) (ha : a < 16) (hb : b < 16) (hc : c < 16) (hu : u < 4096) :
    o * 16777216 + a * 1048576 + b * 65536 + c * 4096 + u < 4294967296 := by omega

theorem fields_op {o a b c u : Nat} (ho : o < 256) (ha : a < 16) (hb : b < 16) (hc : c < 16) (hu : u < 4096) :
    (o * 16777216 + a * 1048576 + b * 65536 + c * 4096 + u) / 16777216 % 256 = o := by omega

theorem fields_xa {o a b c u : Nat} (ha : a < 16) (hb : b < 16) (hc : c < 16) (hu : u < 4096) :
    (o * 16777216 + a * 1048576 + b * 65536 + c * 4096 + u) / 1048576 % 16 = a := by omega

theorem fields_xb {o a b c u : Nat} (hb : b < 16) (hc : c < 16) (hu : u < 4096) :
    (o * 16777216 + a * 1048576 + b * 65536 + c * 4096 + u) / 65536 % 16 = b := by omega

theorem fields_xc {o a b c u : Nat} (hc : c < 16) (hu : u < 4096) :
    (o * 16777216 + a * 1048576 + b * 65536 + c * 4096 + u) / 4096 % 16 = c := by omega

theorem fields_u {o a b c u : Nat} (hu : u < 4096) :
    (o * 16777216 + a * 1048576 + b * 65536 + c * 4096 + u) / 1 % 4096 = u := by omega

/-! ### The fields of a header -/

/-- The number a header stands for: no field overlaps another. -/
theorem headerOf_toNat (o : Opcode) (a b c : XReg) (u : BitVec 12) :
    (headerOf o a b c u).toNat =
      o.bits.toNat * 2 ^ 24 + a.val * 2 ^ 20 + b.val * 2 ^ 16 + c.val * 2 ^ 12 + u.toNat := by
  rw [headerOf, BitVec.toNat_ofNat]
  exact Nat.mod_eq_of_lt (fields_lt o.bits.isLt a.isLt b.isLt c.isLt u.isLt)

theorem addr_lt {o a : Nat} (ho : o < 256) (ha : a < 65536) : o * 16777216 + a < 4294967296 := by omega

/-- The number a header of the formats A and A2 stands for. -/
theorem headerAddr_toNat (o : Opcode) (a : BitVec 16) :
    (headerAddr o a).toNat = o.bits.toNat * 2 ^ 24 + a.toNat := by
  rw [headerAddr, BitVec.toNat_ofNat]
  exact Nat.mod_eq_of_lt (addr_lt o.bits.isLt a.isLt)

@[simp] theorem opField_headerOf (o : Opcode) (a b c : XReg) (u : BitVec 12) :
    opField (headerOf o a b c u) = o.bits := by
  apply BitVec.eq_of_toNat_eq
  rw [opField, extract_toNat, headerOf_toNat]
  exact fields_op o.bits.isLt a.isLt b.isLt c.isLt u.isLt

theorem addr_op {o a : Nat} (ho : o < 256) (ha : a < 65536) : (o * 16777216 + a) / 16777216 % 256 = o := by omega

theorem addr_addr {o a : Nat} (ha : a < 65536) : (o * 16777216 + a) / 1 % 65536 = a := by omega

@[simp] theorem opField_headerAddr (o : Opcode) (a : BitVec 16) : opField (headerAddr o a) = o.bits := by
  apply BitVec.eq_of_toNat_eq
  rw [opField, extract_toNat, headerAddr_toNat]
  exact addr_op o.bits.isLt a.isLt

@[simp] theorem addrField_headerAddr (o : Opcode) (a : BitVec 16) : addrField (headerAddr o a) = a := by
  apply BitVec.eq_of_toNat_eq
  rw [addrField, extract_toNat, headerAddr_toNat]
  exact addr_addr a.isLt

@[simp] theorem xaField_headerOf (o : Opcode) (a b c : XReg) (u : BitVec 12) :
    xaField (headerOf o a b c u) = a := by
  apply Fin.ext
  rw [xaField, BitVec.val_toFin, extract_toNat, headerOf_toNat]
  exact fields_xa a.isLt b.isLt c.isLt u.isLt

@[simp] theorem xbField_headerOf (o : Opcode) (a b c : XReg) (u : BitVec 12) :
    xbField (headerOf o a b c u) = b := by
  apply Fin.ext
  rw [xbField, BitVec.val_toFin, extract_toNat, headerOf_toNat]
  exact fields_xb b.isLt c.isLt u.isLt

@[simp] theorem xcField_headerOf (o : Opcode) (a b c : XReg) (u : BitVec 12) :
    xcField (headerOf o a b c u) = c := by
  apply Fin.ext
  rw [xcField, BitVec.val_toFin, extract_toNat, headerOf_toNat]
  exact fields_xc c.isLt u.isLt

@[simp] theorem uField_headerOf (o : Opcode) (a b c : XReg) (u : BitVec 12) :
    uField (headerOf o a b c u) = u := by
  apply BitVec.eq_of_toNat_eq
  rw [uField, extract_toNat, headerOf_toNat]
  exact fields_u u.isLt

/-- Every assigned opcode value names its command (spec/30_encoding.md R146). -/
@[simp] theorem opcodeOf_bits (o : Opcode) : opcodeOf o.bits = some o := by cases o <;> rfl

/-- The header of a command holds its opcode. -/
@[simp] theorem opField_header (i : Instr) : opField i.header = i.opcode.bits := by
  cases i <;> simp only [Instr.header, Instr.opcode, opField_headerOf, opField_headerAddr]

/-- The length the decoder reads from a header is the length of the command (spec/30_encoding.md R140). -/
@[simp] theorem commandLength_header (i : Instr) : commandLength i.header = i.length := by
  rw [commandLength, opField_header, opcodeOf_bits, Instr.length]

end Sys2Proof
end

