-- ==== Sys2Proof/Laws/Memory.lean ====
section
/-! SUPPORT. Laws of delay memory: a read after a write, and the one form that every operation keeps
(spec/20_memory.md R102). -/

namespace Sys2Proof.Machine

open Sys2Proof

/-! ### Reading -/

@[simp] theorem memRead_nil (a : Nat) : memRead [] a = memDefault := rfl

theorem memRead_cons (k : Nat) (w : Word) (m : Mem) (a : Nat) :
    memRead ((k, w) :: m) a = if k = a then w else memRead m a := rfl

theorem memWfFrom_cons {lo k : Nat} {w : Word} {m : Mem} :
    memWfFrom lo ((k, w) :: m) = true ↔ lo ≤ k ∧ w ≠ memDefault ∧ memWfFrom (k + 1) m = true := by
  simp [memWfFrom, and_assoc]

/-- A buffer in the one form from lo on is in the one form from any smaller index on. -/
theorem memWfFrom_mono {lo lo' : Nat} (h : lo' ≤ lo) {m : Mem} (hm : memWfFrom lo m = true) :
    memWfFrom lo' m = true := by
  cases m with
  | nil => rfl
  | cons c m =>
    obtain ⟨k, w⟩ := c
    rw [memWfFrom_cons] at hm ⊢
    exact ⟨h.trans hm.1, hm.2⟩

/-- Nothing is listed below the least index of the one form. -/
theorem memRead_below {lo a : Nat} {m : Mem} (hm : memWfFrom lo m = true) (ha : a < lo) :
    memRead m a = memDefault := by
  induction m generalizing lo with
  | nil => rfl
  | cons c m ih =>
    obtain ⟨k, w⟩ := c
    rw [memWfFrom_cons] at hm
    rw [memRead_cons, if_neg (by omega), ih hm.2.2 (by omega)]

/-! ### Writing -/

/-- A write keeps the one form. -/
theorem memWfFrom_memWrite {lo a : Nat} {m : Mem} (v : Word) (hm : memWfFrom lo m = true) (ha : lo ≤ a) :
    memWfFrom lo (memWrite m a v) = true := by
  induction m generalizing lo with
  | nil =>
    by_cases hv : v = memDefault
    · simp [memWrite, hv, memWfFrom]
    · simp [memWrite, hv, memWfFrom, ha]
  | cons c m ih =>
    obtain ⟨k, w⟩ := c
    have hc := memWfFrom_cons.1 hm
    by_cases hak : a < k
    · by_cases hv : v = memDefault
      · simpa [memWrite, hak, hv] using hm
      · rw [memWrite, if_pos hak, if_neg hv, memWfFrom_cons, memWfFrom_cons]
        exact ⟨ha, hv, by omega, hc.2⟩
    · by_cases hk : a = k
      · subst hk
        by_cases hv : v = memDefault
        · rw [memWrite, if_neg hak, if_pos rfl, if_pos hv]
          exact memWfFrom_mono (by omega) hc.2.2
        · rw [memWrite, if_neg hak, if_pos rfl, if_neg hv, memWfFrom_cons]
          exact ⟨ha, hv, hc.2.2⟩
      · rw [memWrite, if_neg hak, if_neg hk, memWfFrom_cons]
        exact ⟨hc.1, hc.2.1, ih hc.2.2 (by omega)⟩

/-- Every write keeps the one form. -/
theorem memWf_memWrite {m : Mem} (a : Nat) (v : Word) (hm : memWf m = true) : memWf (memWrite m a v) = true :=
  memWfFrom_memWrite v hm (Nat.zero_le a)

theorem memRead_memWrite_from {lo : Nat} {m : Mem} (a : Nat) (v : Word) (b : Nat) (hm : memWfFrom lo m = true) :
    memRead (memWrite m a v) b = if b = a then v else memRead m b := by
  induction m generalizing lo with
  | nil =>
    by_cases hv : v = memDefault <;> simp [memWrite, hv, memRead, eq_comm]
  | cons c m ih =>
    obtain ⟨k, w⟩ := c
    have hc := memWfFrom_cons.1 hm
    by_cases hak : a < k
    · by_cases hv : v = memDefault
      · rw [memWrite, if_pos hak, if_pos hv]
        by_cases hb : b = a
        · rw [if_pos hb, hv, memRead_cons, if_neg (by omega), memRead_below hc.2.2 (by omega)]
        · rw [if_neg hb]
      · rw [memWrite, if_pos hak, if_neg hv, memRead_cons]
        by_cases hb : b = a
        · rw [if_pos hb.symm, if_pos hb]
        · rw [if_neg (Ne.symm hb), if_neg hb]
    · by_cases hk : a = k
      · subst hk
        by_cases hv : v = memDefault
        · rw [memWrite, if_neg hak, if_pos rfl, if_pos hv, memRead_cons]
          by_cases hb : b = a
          · rw [if_pos hb, hb, hv, memRead_below hc.2.2 (by omega)]
          · rw [if_neg hb, if_neg (by omega)]
        · rw [memWrite, if_neg hak, if_pos rfl, if_neg hv, memRead_cons, memRead_cons]
          by_cases hb : b = a
          · rw [if_pos hb.symm, if_pos hb]
          · rw [if_neg (Ne.symm hb), if_neg (Ne.symm hb), if_neg hb]
      · rw [memWrite, if_neg hak, if_neg hk, memRead_cons, memRead_cons, ih hc.2.2]
        by_cases hb : b = a
        · rw [if_pos hb, if_neg (by omega), if_pos hb]
        · rw [if_neg hb, if_neg hb]

/-- A read after a write: the written word at its index, and what was there before anywhere else. -/
theorem memRead_memWrite {m : Mem} (a : Nat) (v : Word) (b : Nat) (hm : memWf m = true) :
    memRead (memWrite m a v) b = if b = a then v else memRead m b :=
  memRead_memWrite_from a v b hm

/-- The listed cells after a write: the written one and cells listed before. -/
theorem mem_memWrite {m : Mem} {a : Nat} {v : Word} {c : Nat × Word} (h : c ∈ memWrite m a v) :
    c = (a, v) ∨ c ∈ m := by
  induction m with
  | nil =>
    by_cases hv : v = memDefault <;> simp [memWrite, hv] at h
    exact .inl h
  | cons d m ih =>
    obtain ⟨k, w⟩ := d
    unfold memWrite at h
    split at h
    · split at h
      · exact .inr h
      · simpa using h
    · split at h
      · split at h
        · exact .inr (List.mem_cons_of_mem _ h)
        · rcases List.mem_cons.1 h with h | h
          · exact .inl h
          · exact .inr (List.mem_cons_of_mem _ h)
      · rcases List.mem_cons.1 h with h | h
        · exact .inr (h ▸ List.mem_cons_self)
        · exact (ih h).imp_right (List.mem_cons_of_mem _)

/-- A write below a bound keeps every listed index below it. -/
theorem memBelow_memWrite {n a : Nat} {m : Mem} (v : Word) (hm : memBelow n m = true) (ha : a < n) :
    memBelow n (memWrite m a v) = true := by
  simp only [memBelow, List.all_eq_true, decide_eq_true_eq] at hm ⊢
  intro c hc
  rcases mem_memWrite hc with rfl | h
  · exact ha
  · exact hm c h

/-- What a buffer reads as is +0.0 or a listed word. -/
theorem memRead_mem (m : Mem) (a : Nat) : memRead m a = memDefault ∨ (a, memRead m a) ∈ m := by
  induction m with
  | nil => exact .inl rfl
  | cons c m ih =>
    obtain ⟨k, w⟩ := c
    rw [memRead_cons]
    split
    next h => exact .inr (h ▸ List.mem_cons_self)
    next => exact ih.imp_right (List.mem_cons_of_mem _)

/-! ### DlWrite -/

@[simp] theorem dlWrite_cap (ln : Line) (v : F32) : (dlWrite ln v).cap = ln.cap := rfl
@[simp] theorem dlWrite_len (ln : Line) (v : F32) : (dlWrite ln v).len = ln.len := rfl
@[simp] theorem dlWrite_maxMs (ln : Line) (v : F32) : (dlWrite ln v).maxMs = ln.maxMs := rfl
@[simp] theorem dlWrite_lenMs (ln : Line) (v : F32) : (dlWrite ln v).lenMs = ln.lenMs := rfl
@[simp] theorem dlWrite_wptr (ln : Line) (v : F32) : (dlWrite ln v).wptr = (ln.wptr + 1) % ln.cap := rfl
@[simp] theorem dlWrite_buf (ln : Line) (v : F32) :
    (dlWrite ln v).buf = memWrite ln.buf ln.wptr (F32.sanitise v) := rfl

/-- All that DlWrite does to the words of a buffer in the one form (spec/41_delay_line.md R232). -/
theorem memRead_dlWrite {ln : Line} (v : F32) (j : Nat) (h : memWf ln.buf = true) :
    memRead (dlWrite ln v).buf j = if j = ln.wptr then F32.sanitise v else memRead ln.buf j :=
  memRead_memWrite _ _ _ h

end Sys2Proof.Machine
end

