-- ==== Sys2Proof/Laws/State.lean ====
section
/-! SUPPORT. One lemma per field per update of State: what each shared operation leaves as it was, and, where it is
one expression, what it writes. -/

namespace Sys2Proof.Machine

open Sys2Proof

/-! ### setX -/

@[simp] theorem setX_x (r : XReg) (v : F32) (s : State) : (setX r v s).x = s.x.set r v := rfl
@[simp] theorem setX_finL (r : XReg) (v : F32) (s : State) : (setX r v s).finL = s.finL := rfl
@[simp] theorem setX_finR (r : XReg) (v : F32) (s : State) : (setX r v s).finR = s.finR := rfl
@[simp] theorem setX_foutL (r : XReg) (v : F32) (s : State) : (setX r v s).foutL = s.foutL := rfl
@[simp] theorem setX_foutR (r : XReg) (v : F32) (s : State) : (setX r v s).foutR = s.foutR := rfl
@[simp] theorem setX_pc (r : XReg) (v : F32) (s : State) : (setX r v s).pc = s.pc := rfl
@[simp] theorem setX_pmem (r : XReg) (v : F32) (s : State) : (setX r v s).pmem = s.pmem := rfl
@[simp] theorem setX_err (r : XReg) (v : F32) (s : State) : (setX r v s).err = s.err := rfl
@[simp] theorem setX_clamp (r : XReg) (v : F32) (s : State) : (setX r v s).clamp = s.clamp := rfl
@[simp] theorem setX_cause (r : XReg) (v : F32) (s : State) : (setX r v s).cause = s.cause := rfl
@[simp] theorem setX_errWord (r : XReg) (v : F32) (s : State) : (setX r v s).errWord = s.errWord := rfl
@[simp] theorem setX_errPc (r : XReg) (v : F32) (s : State) : (setX r v s).errPc = s.errPc := rfl
@[simp] theorem setX_errIe (r : XReg) (v : F32) (s : State) : (setX r v s).errIe = s.errIe := rfl
@[simp] theorem setX_clampIe (r : XReg) (v : F32) (s : State) : (setX r v s).clampIe = s.clampIe := rfl
@[simp] theorem setX_fs (r : XReg) (v : F32) (s : State) : (setX r v s).fs = s.fs := rfl
@[simp] theorem setX_frameCnt (r : XReg) (v : F32) (s : State) : (setX r v s).frameCnt = s.frameCnt := rfl
@[simp] theorem setX_lines (r : XReg) (v : F32) (s : State) : (setX r v s).lines = s.lines := rfl
@[simp] theorem setX_filters (r : XReg) (v : F32) (s : State) : (setX r v s).filters = s.filters := rfl
@[simp] theorem setX_combs (r : XReg) (v : F32) (s : State) : (setX r v s).combs = s.combs := rfl
@[simp] theorem setX_banks (r : XReg) (v : F32) (s : State) : (setX r v s).banks = s.banks := rfl
@[simp] theorem setX_chains (r : XReg) (v : F32) (s : State) : (setX r v s).chains = s.chains := rfl
@[simp] theorem setX_fdn (r : XReg) (v : F32) (s : State) : (setX r v s).fdn = s.fdn := rfl
@[simp] theorem setX_hostIn (r : XReg) (v : F32) (s : State) : (setX r v s).hostIn = s.hostIn := rfl
@[simp] theorem setX_rsp (r : XReg) (v : F32) (s : State) : (setX r v s).rsp = s.rsp := rfl
@[simp] theorem setX_irq (r : XReg) (v : F32) (s : State) : (setX r v s).irq = s.irq := rfl

/-! ### setXS -/

@[simp] theorem setXS_x (r : XReg) (v : F32) (s : State) : (setXS r v s).x = s.x.set r (F32.sanitise v) := rfl
@[simp] theorem setXS_finL (r : XReg) (v : F32) (s : State) : (setXS r v s).finL = s.finL := rfl
@[simp] theorem setXS_finR (r : XReg) (v : F32) (s : State) : (setXS r v s).finR = s.finR := rfl
@[simp] theorem setXS_foutL (r : XReg) (v : F32) (s : State) : (setXS r v s).foutL = s.foutL := rfl
@[simp] theorem setXS_foutR (r : XReg) (v : F32) (s : State) : (setXS r v s).foutR = s.foutR := rfl
@[simp] theorem setXS_pc (r : XReg) (v : F32) (s : State) : (setXS r v s).pc = s.pc := rfl
@[simp] theorem setXS_pmem (r : XReg) (v : F32) (s : State) : (setXS r v s).pmem = s.pmem := rfl
@[simp] theorem setXS_err (r : XReg) (v : F32) (s : State) : (setXS r v s).err = s.err := rfl
@[simp] theorem setXS_clamp (r : XReg) (v : F32) (s : State) : (setXS r v s).clamp = s.clamp := rfl
@[simp] theorem setXS_cause (r : XReg) (v : F32) (s : State) : (setXS r v s).cause = s.cause := rfl
@[simp] theorem setXS_errWord (r : XReg) (v : F32) (s : State) : (setXS r v s).errWord = s.errWord := rfl
@[simp] theorem setXS_errPc (r : XReg) (v : F32) (s : State) : (setXS r v s).errPc = s.errPc := rfl
@[simp] theorem setXS_errIe (r : XReg) (v : F32) (s : State) : (setXS r v s).errIe = s.errIe := rfl
@[simp] theorem setXS_clampIe (r : XReg) (v : F32) (s : State) : (setXS r v s).clampIe = s.clampIe := rfl
@[simp] theorem setXS_fs (r : XReg) (v : F32) (s : State) : (setXS r v s).fs = s.fs := rfl
@[simp] theorem setXS_frameCnt (r : XReg) (v : F32) (s : State) : (setXS r v s).frameCnt = s.frameCnt := rfl
@[simp] theorem setXS_lines (r : XReg) (v : F32) (s : State) : (setXS r v s).lines = s.lines := rfl
@[simp] theorem setXS_filters (r : XReg) (v : F32) (s : State) : (setXS r v s).filters = s.filters := rfl
@[simp] theorem setXS_combs (r : XReg) (v : F32) (s : State) : (setXS r v s).combs = s.combs := rfl
@[simp] theorem setXS_banks (r : XReg) (v : F32) (s : State) : (setXS r v s).banks = s.banks := rfl
@[simp] theorem setXS_chains (r : XReg) (v : F32) (s : State) : (setXS r v s).chains = s.chains := rfl
@[simp] theorem setXS_fdn (r : XReg) (v : F32) (s : State) : (setXS r v s).fdn = s.fdn := rfl
@[simp] theorem setXS_hostIn (r : XReg) (v : F32) (s : State) : (setXS r v s).hostIn = s.hostIn := rfl
@[simp] theorem setXS_rsp (r : XReg) (v : F32) (s : State) : (setXS r v s).rsp = s.rsp := rfl
@[simp] theorem setXS_irq (r : XReg) (v : F32) (s : State) : (setXS r v s).irq = s.irq := rfl

/-! ### setLine -/

@[simp] theorem setLine_x (l : Fin 44) (ln : Line) (s : State) : (setLine l ln s).x = s.x := rfl
@[simp] theorem setLine_finL (l : Fin 44) (ln : Line) (s : State) : (setLine l ln s).finL = s.finL := rfl
@[simp] theorem setLine_finR (l : Fin 44) (ln : Line) (s : State) : (setLine l ln s).finR = s.finR := rfl
@[simp] theorem setLine_foutL (l : Fin 44) (ln : Line) (s : State) : (setLine l ln s).foutL = s.foutL := rfl
@[simp] theorem setLine_foutR (l : Fin 44) (ln : Line) (s : State) : (setLine l ln s).foutR = s.foutR := rfl
@[simp] theorem setLine_pc (l : Fin 44) (ln : Line) (s : State) : (setLine l ln s).pc = s.pc := rfl
@[simp] theorem setLine_pmem (l : Fin 44) (ln : Line) (s : State) : (setLine l ln s).pmem = s.pmem := rfl
@[simp] theorem setLine_err (l : Fin 44) (ln : Line) (s : State) : (setLine l ln s).err = s.err := rfl
@[simp] theorem setLine_clamp (l : Fin 44) (ln : Line) (s : State) : (setLine l ln s).clamp = s.clamp := rfl
@[simp] theorem setLine_cause (l : Fin 44) (ln : Line) (s : State) : (setLine l ln s).cause = s.cause := rfl
@[simp] theorem setLine_errWord (l : Fin 44) (ln : Line) (s : State) : (setLine l ln s).errWord = s.errWord := rfl
@[simp] theorem setLine_errPc (l : Fin 44) (ln : Line) (s : State) : (setLine l ln s).errPc = s.errPc := rfl
@[simp] theorem setLine_errIe (l : Fin 44) (ln : Line) (s : State) : (setLine l ln s).errIe = s.errIe := rfl
@[simp] theorem setLine_clampIe (l : Fin 44) (ln : Line) (s : State) : (setLine l ln s).clampIe = s.clampIe := rfl
@[simp] theorem setLine_fs (l : Fin 44) (ln : Line) (s : State) : (setLine l ln s).fs = s.fs := rfl
@[simp] theorem setLine_frameCnt (l : Fin 44) (ln : Line) (s : State) : (setLine l ln s).frameCnt = s.frameCnt := rfl
@[simp] theorem setLine_lines (l : Fin 44) (ln : Line) (s : State) : (setLine l ln s).lines = s.lines.set l ln := rfl
@[simp] theorem setLine_filters (l : Fin 44) (ln : Line) (s : State) : (setLine l ln s).filters = s.filters := rfl
@[simp] theorem setLine_combs (l : Fin 44) (ln : Line) (s : State) : (setLine l ln s).combs = s.combs := rfl
@[simp] theorem setLine_banks (l : Fin 44) (ln : Line) (s : State) : (setLine l ln s).banks = s.banks := rfl
@[simp] theorem setLine_chains (l : Fin 44) (ln : Line) (s : State) : (setLine l ln s).chains = s.chains := rfl
@[simp] theorem setLine_fdn (l : Fin 44) (ln : Line) (s : State) : (setLine l ln s).fdn = s.fdn := rfl
@[simp] theorem setLine_hostIn (l : Fin 44) (ln : Line) (s : State) : (setLine l ln s).hostIn = s.hostIn := rfl
@[simp] theorem setLine_rsp (l : Fin 44) (ln : Line) (s : State) : (setLine l ln s).rsp = s.rsp := rfl
@[simp] theorem setLine_irq (l : Fin 44) (ln : Line) (s : State) : (setLine l ln s).irq = s.irq := rfl

/-! ### setFilter -/

@[simp] theorem setFilter_x (f : Fin 32) (fl : Filter) (s : State) : (setFilter f fl s).x = s.x := rfl
@[simp] theorem setFilter_finL (f : Fin 32) (fl : Filter) (s : State) : (setFilter f fl s).finL = s.finL := rfl
@[simp] theorem setFilter_finR (f : Fin 32) (fl : Filter) (s : State) : (setFilter f fl s).finR = s.finR := rfl
@[simp] theorem setFilter_foutL (f : Fin 32) (fl : Filter) (s : State) : (setFilter f fl s).foutL = s.foutL := rfl
@[simp] theorem setFilter_foutR (f : Fin 32) (fl : Filter) (s : State) : (setFilter f fl s).foutR = s.foutR := rfl
@[simp] theorem setFilter_pc (f : Fin 32) (fl : Filter) (s : State) : (setFilter f fl s).pc = s.pc := rfl
@[simp] theorem setFilter_pmem (f : Fin 32) (fl : Filter) (s : State) : (setFilter f fl s).pmem = s.pmem := rfl
@[simp] theorem setFilter_err (f : Fin 32) (fl : Filter) (s : State) : (setFilter f fl s).err = s.err := rfl
@[simp] theorem setFilter_clamp (f : Fin 32) (fl : Filter) (s : State) : (setFilter f fl s).clamp = s.clamp := rfl
@[simp] theorem setFilter_cause (f : Fin 32) (fl : Filter) (s : State) : (setFilter f fl s).cause = s.cause := rfl
@[simp] theorem setFilter_errWord (f : Fin 32) (fl : Filter) (s : State) :
    (setFilter f fl s).errWord = s.errWord := rfl
@[simp] theorem setFilter_errPc (f : Fin 32) (fl : Filter) (s : State) : (setFilter f fl s).errPc = s.errPc := rfl
@[simp] theorem setFilter_errIe (f : Fin 32) (fl : Filter) (s : State) : (setFilter f fl s).errIe = s.errIe := rfl
@[simp] theorem setFilter_clampIe (f : Fin 32) (fl : Filter) (s : State) :
    (setFilter f fl s).clampIe = s.clampIe := rfl
@[simp] theorem setFilter_fs (f : Fin 32) (fl : Filter) (s : State) : (setFilter f fl s).fs = s.fs := rfl
@[simp] theorem setFilter_frameCnt (f : Fin 32) (fl : Filter) (s : State) :
    (setFilter f fl s).frameCnt = s.frameCnt := rfl
@[simp] theorem setFilter_lines (f : Fin 32) (fl : Filter) (s : State) : (setFilter f fl s).lines = s.lines := rfl
@[simp] theorem setFilter_filters (f : Fin 32) (fl : Filter) (s : State) :
    (setFilter f fl s).filters = s.filters.set f fl := rfl
@[simp] theorem setFilter_combs (f : Fin 32) (fl : Filter) (s : State) : (setFilter f fl s).combs = s.combs := rfl
@[simp] theorem setFilter_banks (f : Fin 32) (fl : Filter) (s : State) : (setFilter f fl s).banks = s.banks := rfl
@[simp] theorem setFilter_chains (f : Fin 32) (fl : Filter) (s : State) : (setFilter f fl s).chains = s.chains := rfl
@[simp] theorem setFilter_fdn (f : Fin 32) (fl : Filter) (s : State) : (setFilter f fl s).fdn = s.fdn := rfl
@[simp] theorem setFilter_hostIn (f : Fin 32) (fl : Filter) (s : State) : (setFilter f fl s).hostIn = s.hostIn := rfl
@[simp] theorem setFilter_rsp (f : Fin 32) (fl : Filter) (s : State) : (setFilter f fl s).rsp = s.rsp := rfl
@[simp] theorem setFilter_irq (f : Fin 32) (fl : Filter) (s : State) : (setFilter f fl s).irq = s.irq := rfl

/-! ### setBank -/

@[simp] theorem setBank_x (b : Fin 2) (bk : Bank) (s : State) : (setBank b bk s).x = s.x := rfl
@[simp] theorem setBank_finL (b : Fin 2) (bk : Bank) (s : State) : (setBank b bk s).finL = s.finL := rfl
@[simp] theorem setBank_finR (b : Fin 2) (bk : Bank) (s : State) : (setBank b bk s).finR = s.finR := rfl
@[simp] theorem setBank_foutL (b : Fin 2) (bk : Bank) (s : State) : (setBank b bk s).foutL = s.foutL := rfl
@[simp] theorem setBank_foutR (b : Fin 2) (bk : Bank) (s : State) : (setBank b bk s).foutR = s.foutR := rfl
@[simp] theorem setBank_pc (b : Fin 2) (bk : Bank) (s : State) : (setBank b bk s).pc = s.pc := rfl
@[simp] theorem setBank_pmem (b : Fin 2) (bk : Bank) (s : State) : (setBank b bk s).pmem = s.pmem := rfl
@[simp] theorem setBank_err (b : Fin 2) (bk : Bank) (s : State) : (setBank b bk s).err = s.err := rfl
@[simp] theorem setBank_clamp (b : Fin 2) (bk : Bank) (s : State) : (setBank b bk s).clamp = s.clamp := rfl
@[simp] theorem setBank_cause (b : Fin 2) (bk : Bank) (s : State) : (setBank b bk s).cause = s.cause := rfl
@[simp] theorem setBank_errWord (b : Fin 2) (bk : Bank) (s : State) : (setBank b bk s).errWord = s.errWord := rfl
@[simp] theorem setBank_errPc (b : Fin 2) (bk : Bank) (s : State) : (setBank b bk s).errPc = s.errPc := rfl
@[simp] theorem setBank_errIe (b : Fin 2) (bk : Bank) (s : State) : (setBank b bk s).errIe = s.errIe := rfl
@[simp] theorem setBank_clampIe (b : Fin 2) (bk : Bank) (s : State) : (setBank b bk s).clampIe = s.clampIe := rfl
@[simp] theorem setBank_fs (b : Fin 2) (bk : Bank) (s : State) : (setBank b bk s).fs = s.fs := rfl
@[simp] theorem setBank_frameCnt (b : Fin 2) (bk : Bank) (s : State) : (setBank b bk s).frameCnt = s.frameCnt := rfl
@[simp] theorem setBank_lines (b : Fin 2) (bk : Bank) (s : State) : (setBank b bk s).lines = s.lines := rfl
@[simp] theorem setBank_filters (b : Fin 2) (bk : Bank) (s : State) : (setBank b bk s).filters = s.filters := rfl
@[simp] theorem setBank_combs (b : Fin 2) (bk : Bank) (s : State) : (setBank b bk s).combs = s.combs := rfl
@[simp] theorem setBank_banks (b : Fin 2) (bk : Bank) (s : State) : (setBank b bk s).banks = s.banks.set b bk := rfl
@[simp] theorem setBank_chains (b : Fin 2) (bk : Bank) (s : State) : (setBank b bk s).chains = s.chains := rfl
@[simp] theorem setBank_fdn (b : Fin 2) (bk : Bank) (s : State) : (setBank b bk s).fdn = s.fdn := rfl
@[simp] theorem setBank_hostIn (b : Fin 2) (bk : Bank) (s : State) : (setBank b bk s).hostIn = s.hostIn := rfl
@[simp] theorem setBank_rsp (b : Fin 2) (bk : Bank) (s : State) : (setBank b bk s).rsp = s.rsp := rfl
@[simp] theorem setBank_irq (b : Fin 2) (bk : Bank) (s : State) : (setBank b bk s).irq = s.irq := rfl

/-! ### orClamp -/

@[simp] theorem orClamp_x (b : Bool) (s : State) : (orClamp b s).x = s.x := rfl
@[simp] theorem orClamp_finL (b : Bool) (s : State) : (orClamp b s).finL = s.finL := rfl
@[simp] theorem orClamp_finR (b : Bool) (s : State) : (orClamp b s).finR = s.finR := rfl
@[simp] theorem orClamp_foutL (b : Bool) (s : State) : (orClamp b s).foutL = s.foutL := rfl
@[simp] theorem orClamp_foutR (b : Bool) (s : State) : (orClamp b s).foutR = s.foutR := rfl
@[simp] theorem orClamp_pc (b : Bool) (s : State) : (orClamp b s).pc = s.pc := rfl
@[simp] theorem orClamp_pmem (b : Bool) (s : State) : (orClamp b s).pmem = s.pmem := rfl
@[simp] theorem orClamp_err (b : Bool) (s : State) : (orClamp b s).err = s.err := rfl
@[simp] theorem orClamp_clamp (b : Bool) (s : State) : (orClamp b s).clamp = (s.clamp || b) := rfl
@[simp] theorem orClamp_cause (b : Bool) (s : State) : (orClamp b s).cause = s.cause := rfl
@[simp] theorem orClamp_errWord (b : Bool) (s : State) : (orClamp b s).errWord = s.errWord := rfl
@[simp] theorem orClamp_errPc (b : Bool) (s : State) : (orClamp b s).errPc = s.errPc := rfl
@[simp] theorem orClamp_errIe (b : Bool) (s : State) : (orClamp b s).errIe = s.errIe := rfl
@[simp] theorem orClamp_clampIe (b : Bool) (s : State) : (orClamp b s).clampIe = s.clampIe := rfl
@[simp] theorem orClamp_fs (b : Bool) (s : State) : (orClamp b s).fs = s.fs := rfl
@[simp] theorem orClamp_frameCnt (b : Bool) (s : State) : (orClamp b s).frameCnt = s.frameCnt := rfl
@[simp] theorem orClamp_lines (b : Bool) (s : State) : (orClamp b s).lines = s.lines := rfl
@[simp] theorem orClamp_filters (b : Bool) (s : State) : (orClamp b s).filters = s.filters := rfl
@[simp] theorem orClamp_combs (b : Bool) (s : State) : (orClamp b s).combs = s.combs := rfl
@[simp] theorem orClamp_banks (b : Bool) (s : State) : (orClamp b s).banks = s.banks := rfl
@[simp] theorem orClamp_chains (b : Bool) (s : State) : (orClamp b s).chains = s.chains := rfl
@[simp] theorem orClamp_fdn (b : Bool) (s : State) : (orClamp b s).fdn = s.fdn := rfl
@[simp] theorem orClamp_hostIn (b : Bool) (s : State) : (orClamp b s).hostIn = s.hostIn := rfl
@[simp] theorem orClamp_rsp (b : Bool) (s : State) : (orClamp b s).rsp = s.rsp := rfl
@[simp] theorem orClamp_irq (b : Bool) (s : State) : (orClamp b s).irq = s.irq := rfl

/-! ### clearStatus -/

@[simp] theorem clearStatus_x (v : Word) (s : State) : (clearStatus v s).x = s.x := rfl
@[simp] theorem clearStatus_finL (v : Word) (s : State) : (clearStatus v s).finL = s.finL := rfl
@[simp] theorem clearStatus_finR (v : Word) (s : State) : (clearStatus v s).finR = s.finR := rfl
@[simp] theorem clearStatus_foutL (v : Word) (s : State) : (clearStatus v s).foutL = s.foutL := rfl
@[simp] theorem clearStatus_foutR (v : Word) (s : State) : (clearStatus v s).foutR = s.foutR := rfl
@[simp] theorem clearStatus_pc (v : Word) (s : State) : (clearStatus v s).pc = s.pc := rfl
@[simp] theorem clearStatus_pmem (v : Word) (s : State) : (clearStatus v s).pmem = s.pmem := rfl
@[simp] theorem clearStatus_err (v : Word) (s : State) : (clearStatus v s).err = (s.err && !v.getLsbD 0) := rfl
@[simp] theorem clearStatus_clamp (v : Word) (s : State) : (clearStatus v s).clamp = (s.clamp && !v.getLsbD 1) := rfl
@[simp] theorem clearStatus_cause (v : Word) (s : State) : (clearStatus v s).cause = s.cause := rfl
@[simp] theorem clearStatus_errWord (v : Word) (s : State) : (clearStatus v s).errWord = s.errWord := rfl
@[simp] theorem clearStatus_errPc (v : Word) (s : State) : (clearStatus v s).errPc = s.errPc := rfl
@[simp] theorem clearStatus_errIe (v : Word) (s : State) : (clearStatus v s).errIe = s.errIe := rfl
@[simp] theorem clearStatus_clampIe (v : Word) (s : State) : (clearStatus v s).clampIe = s.clampIe := rfl
@[simp] theorem clearStatus_fs (v : Word) (s : State) : (clearStatus v s).fs = s.fs := rfl
@[simp] theorem clearStatus_frameCnt (v : Word) (s : State) : (clearStatus v s).frameCnt = s.frameCnt := rfl
@[simp] theorem clearStatus_lines (v : Word) (s : State) : (clearStatus v s).lines = s.lines := rfl
@[simp] theorem clearStatus_filters (v : Word) (s : State) : (clearStatus v s).filters = s.filters := rfl
@[simp] theorem clearStatus_combs (v : Word) (s : State) : (clearStatus v s).combs = s.combs := rfl
@[simp] theorem clearStatus_banks (v : Word) (s : State) : (clearStatus v s).banks = s.banks := rfl
@[simp] theorem clearStatus_chains (v : Word) (s : State) : (clearStatus v s).chains = s.chains := rfl
@[simp] theorem clearStatus_fdn (v : Word) (s : State) : (clearStatus v s).fdn = s.fdn := rfl
@[simp] theorem clearStatus_hostIn (v : Word) (s : State) : (clearStatus v s).hostIn = s.hostIn := rfl
@[simp] theorem clearStatus_rsp (v : Word) (s : State) : (clearStatus v s).rsp = s.rsp := rfl
@[simp] theorem clearStatus_irq (v : Word) (s : State) : (clearStatus v s).irq = s.irq := rfl

/-! ### emit -/

@[simp] theorem emit_x (w : Word) (s : State) : (emit w s).x = s.x := rfl
@[simp] theorem emit_finL (w : Word) (s : State) : (emit w s).finL = s.finL := rfl
@[simp] theorem emit_finR (w : Word) (s : State) : (emit w s).finR = s.finR := rfl
@[simp] theorem emit_foutL (w : Word) (s : State) : (emit w s).foutL = s.foutL := rfl
@[simp] theorem emit_foutR (w : Word) (s : State) : (emit w s).foutR = s.foutR := rfl
@[simp] theorem emit_pc (w : Word) (s : State) : (emit w s).pc = s.pc := rfl
@[simp] theorem emit_pmem (w : Word) (s : State) : (emit w s).pmem = s.pmem := rfl
@[simp] theorem emit_err (w : Word) (s : State) : (emit w s).err = s.err := rfl
@[simp] theorem emit_clamp (w : Word) (s : State) : (emit w s).clamp = s.clamp := rfl
@[simp] theorem emit_cause (w : Word) (s : State) : (emit w s).cause = s.cause := rfl
@[simp] theorem emit_errWord (w : Word) (s : State) : (emit w s).errWord = s.errWord := rfl
@[simp] theorem emit_errPc (w : Word) (s : State) : (emit w s).errPc = s.errPc := rfl
@[simp] theorem emit_errIe (w : Word) (s : State) : (emit w s).errIe = s.errIe := rfl
@[simp] theorem emit_clampIe (w : Word) (s : State) : (emit w s).clampIe = s.clampIe := rfl
@[simp] theorem emit_fs (w : Word) (s : State) : (emit w s).fs = s.fs := rfl
@[simp] theorem emit_frameCnt (w : Word) (s : State) : (emit w s).frameCnt = s.frameCnt := rfl
@[simp] theorem emit_lines (w : Word) (s : State) : (emit w s).lines = s.lines := rfl
@[simp] theorem emit_filters (w : Word) (s : State) : (emit w s).filters = s.filters := rfl
@[simp] theorem emit_combs (w : Word) (s : State) : (emit w s).combs = s.combs := rfl
@[simp] theorem emit_banks (w : Word) (s : State) : (emit w s).banks = s.banks := rfl
@[simp] theorem emit_chains (w : Word) (s : State) : (emit w s).chains = s.chains := rfl
@[simp] theorem emit_fdn (w : Word) (s : State) : (emit w s).fdn = s.fdn := rfl
@[simp] theorem emit_hostIn (w : Word) (s : State) : (emit w s).hostIn = s.hostIn := rfl
@[simp] theorem emit_rsp (w : Word) (s : State) : (emit w s).rsp = s.rsp ++ [w] := rfl
@[simp] theorem emit_irq (w : Word) (s : State) : (emit w s).irq = s.irq := rfl

/-! ### updateIrq -/

@[simp] theorem updateIrq_x (s : State) : (updateIrq s).x = s.x := rfl
@[simp] theorem updateIrq_finL (s : State) : (updateIrq s).finL = s.finL := rfl
@[simp] theorem updateIrq_finR (s : State) : (updateIrq s).finR = s.finR := rfl
@[simp] theorem updateIrq_foutL (s : State) : (updateIrq s).foutL = s.foutL := rfl
@[simp] theorem updateIrq_foutR (s : State) : (updateIrq s).foutR = s.foutR := rfl
@[simp] theorem updateIrq_pc (s : State) : (updateIrq s).pc = s.pc := rfl
@[simp] theorem updateIrq_pmem (s : State) : (updateIrq s).pmem = s.pmem := rfl
@[simp] theorem updateIrq_err (s : State) : (updateIrq s).err = s.err := rfl
@[simp] theorem updateIrq_clamp (s : State) : (updateIrq s).clamp = s.clamp := rfl
@[simp] theorem updateIrq_cause (s : State) : (updateIrq s).cause = s.cause := rfl
@[simp] theorem updateIrq_errWord (s : State) : (updateIrq s).errWord = s.errWord := rfl
@[simp] theorem updateIrq_errPc (s : State) : (updateIrq s).errPc = s.errPc := rfl
@[simp] theorem updateIrq_errIe (s : State) : (updateIrq s).errIe = s.errIe := rfl
@[simp] theorem updateIrq_clampIe (s : State) : (updateIrq s).clampIe = s.clampIe := rfl
@[simp] theorem updateIrq_fs (s : State) : (updateIrq s).fs = s.fs := rfl
@[simp] theorem updateIrq_frameCnt (s : State) : (updateIrq s).frameCnt = s.frameCnt := rfl
@[simp] theorem updateIrq_lines (s : State) : (updateIrq s).lines = s.lines := rfl
@[simp] theorem updateIrq_filters (s : State) : (updateIrq s).filters = s.filters := rfl
@[simp] theorem updateIrq_combs (s : State) : (updateIrq s).combs = s.combs := rfl
@[simp] theorem updateIrq_banks (s : State) : (updateIrq s).banks = s.banks := rfl
@[simp] theorem updateIrq_chains (s : State) : (updateIrq s).chains = s.chains := rfl
@[simp] theorem updateIrq_fdn (s : State) : (updateIrq s).fdn = s.fdn := rfl
@[simp] theorem updateIrq_hostIn (s : State) : (updateIrq s).hostIn = s.hostIn := rfl
@[simp] theorem updateIrq_rsp (s : State) : (updateIrq s).rsp = s.rsp := rfl
@[simp] theorem updateIrq_irq (s : State) : (updateIrq s).irq = irqLevel s := rfl

/-! ### finishFrame -/

@[simp] theorem finishFrame_x (s : State) : (finishFrame s).x = s.x := rfl
@[simp] theorem finishFrame_finL (s : State) : (finishFrame s).finL = s.finL := rfl
@[simp] theorem finishFrame_finR (s : State) : (finishFrame s).finR = s.finR := rfl
@[simp] theorem finishFrame_foutL (s : State) : (finishFrame s).foutL = s.foutL := rfl
@[simp] theorem finishFrame_foutR (s : State) : (finishFrame s).foutR = s.foutR := rfl
@[simp] theorem finishFrame_pc (s : State) : (finishFrame s).pc = none := rfl
@[simp] theorem finishFrame_pmem (s : State) : (finishFrame s).pmem = s.pmem := rfl
@[simp] theorem finishFrame_err (s : State) : (finishFrame s).err = s.err := rfl
@[simp] theorem finishFrame_clamp (s : State) : (finishFrame s).clamp = s.clamp := rfl
@[simp] theorem finishFrame_cause (s : State) : (finishFrame s).cause = s.cause := rfl
@[simp] theorem finishFrame_errWord (s : State) : (finishFrame s).errWord = s.errWord := rfl
@[simp] theorem finishFrame_errPc (s : State) : (finishFrame s).errPc = s.errPc := rfl
@[simp] theorem finishFrame_errIe (s : State) : (finishFrame s).errIe = s.errIe := rfl
@[simp] theorem finishFrame_clampIe (s : State) : (finishFrame s).clampIe = s.clampIe := rfl
@[simp] theorem finishFrame_fs (s : State) : (finishFrame s).fs = s.fs := rfl
@[simp] theorem finishFrame_frameCnt (s : State) : (finishFrame s).frameCnt = s.frameCnt + 1#32 := rfl
@[simp] theorem finishFrame_lines (s : State) : (finishFrame s).lines = s.lines := rfl
@[simp] theorem finishFrame_filters (s : State) : (finishFrame s).filters = s.filters := rfl
@[simp] theorem finishFrame_combs (s : State) : (finishFrame s).combs = s.combs := rfl
@[simp] theorem finishFrame_banks (s : State) : (finishFrame s).banks = s.banks := rfl
@[simp] theorem finishFrame_chains (s : State) : (finishFrame s).chains = s.chains := rfl
@[simp] theorem finishFrame_fdn (s : State) : (finishFrame s).fdn = s.fdn := rfl
@[simp] theorem finishFrame_hostIn (s : State) : (finishFrame s).hostIn = s.hostIn := rfl
@[simp] theorem finishFrame_rsp (s : State) : (finishFrame s).rsp = s.rsp ++ [s.foutL] ++ [s.foutR] := rfl
@[simp] theorem finishFrame_irq (s : State) : (finishFrame s).irq = s.irq := rfl

/-! ### clearFilters -/

@[simp] theorem clearFilters_x (s : State) : (clearFilters s).x = s.x := by simp only [clearFilters]
@[simp] theorem clearFilters_finL (s : State) : (clearFilters s).finL = s.finL := by simp only [clearFilters]
@[simp] theorem clearFilters_finR (s : State) : (clearFilters s).finR = s.finR := by simp only [clearFilters]
@[simp] theorem clearFilters_foutL (s : State) : (clearFilters s).foutL = s.foutL := by simp only [clearFilters]
@[simp] theorem clearFilters_foutR (s : State) : (clearFilters s).foutR = s.foutR := by simp only [clearFilters]
@[simp] theorem clearFilters_pc (s : State) : (clearFilters s).pc = s.pc := by simp only [clearFilters]
@[simp] theorem clearFilters_pmem (s : State) : (clearFilters s).pmem = s.pmem := by simp only [clearFilters]
@[simp] theorem clearFilters_err (s : State) : (clearFilters s).err = s.err := by simp only [clearFilters]
@[simp] theorem clearFilters_clamp (s : State) : (clearFilters s).clamp = s.clamp := by simp only [clearFilters]
@[simp] theorem clearFilters_cause (s : State) : (clearFilters s).cause = s.cause := by simp only [clearFilters]
@[simp] theorem clearFilters_errWord (s : State) : (clearFilters s).errWord = s.errWord := by simp only [clearFilters]
@[simp] theorem clearFilters_errPc (s : State) : (clearFilters s).errPc = s.errPc := by simp only [clearFilters]
@[simp] theorem clearFilters_errIe (s : State) : (clearFilters s).errIe = s.errIe := by simp only [clearFilters]
@[simp] theorem clearFilters_clampIe (s : State) : (clearFilters s).clampIe = s.clampIe := by simp only [clearFilters]
@[simp] theorem clearFilters_fs (s : State) : (clearFilters s).fs = s.fs := by simp only [clearFilters]
@[simp] theorem clearFilters_frameCnt (s : State) : (clearFilters s).frameCnt = s.frameCnt := by simp only [clearFilters]
@[simp] theorem clearFilters_lines (s : State) : (clearFilters s).lines = s.lines := by simp only [clearFilters]
@[simp] theorem clearFilters_combs (s : State) : (clearFilters s).combs = s.combs := by simp only [clearFilters]
@[simp] theorem clearFilters_banks (s : State) : (clearFilters s).banks = s.banks := by simp only [clearFilters]
@[simp] theorem clearFilters_chains (s : State) : (clearFilters s).chains = s.chains := by simp only [clearFilters]
@[simp] theorem clearFilters_fdn (s : State) : (clearFilters s).fdn = s.fdn := by simp only [clearFilters]
@[simp] theorem clearFilters_hostIn (s : State) : (clearFilters s).hostIn = s.hostIn := by simp only [clearFilters]
@[simp] theorem clearFilters_rsp (s : State) : (clearFilters s).rsp = s.rsp := by simp only [clearFilters]
@[simp] theorem clearFilters_irq (s : State) : (clearFilters s).irq = s.irq := by simp only [clearFilters]

/-! ### realloc -/

@[simp] theorem realloc_x (s : State) : (realloc s).x = s.x := by simp only [realloc]
@[simp] theorem realloc_finL (s : State) : (realloc s).finL = s.finL := by simp only [realloc]
@[simp] theorem realloc_finR (s : State) : (realloc s).finR = s.finR := by simp only [realloc]
@[simp] theorem realloc_foutL (s : State) : (realloc s).foutL = s.foutL := by simp only [realloc]
@[simp] theorem realloc_foutR (s : State) : (realloc s).foutR = s.foutR := by simp only [realloc]
@[simp] theorem realloc_pc (s : State) : (realloc s).pc = s.pc := by simp only [realloc]
@[simp] theorem realloc_pmem (s : State) : (realloc s).pmem = s.pmem := by simp only [realloc]
@[simp] theorem realloc_err (s : State) : (realloc s).err = s.err := by simp only [realloc]
@[simp] theorem realloc_cause (s : State) : (realloc s).cause = s.cause := by simp only [realloc]
@[simp] theorem realloc_errWord (s : State) : (realloc s).errWord = s.errWord := by simp only [realloc]
@[simp] theorem realloc_errPc (s : State) : (realloc s).errPc = s.errPc := by simp only [realloc]
@[simp] theorem realloc_errIe (s : State) : (realloc s).errIe = s.errIe := by simp only [realloc]
@[simp] theorem realloc_clampIe (s : State) : (realloc s).clampIe = s.clampIe := by simp only [realloc]
@[simp] theorem realloc_fs (s : State) : (realloc s).fs = s.fs := by simp only [realloc]
@[simp] theorem realloc_frameCnt (s : State) : (realloc s).frameCnt = s.frameCnt := by simp only [realloc]
@[simp] theorem realloc_filters (s : State) : (realloc s).filters = s.filters := by simp only [realloc]
@[simp] theorem realloc_combs (s : State) : (realloc s).combs = s.combs := by simp only [realloc]
@[simp] theorem realloc_banks (s : State) : (realloc s).banks = s.banks := by simp only [realloc]
@[simp] theorem realloc_chains (s : State) : (realloc s).chains = s.chains := by simp only [realloc]
@[simp] theorem realloc_fdn (s : State) : (realloc s).fdn = s.fdn := by simp only [realloc]
@[simp] theorem realloc_hostIn (s : State) : (realloc s).hostIn = s.hostIn := by simp only [realloc]
@[simp] theorem realloc_rsp (s : State) : (realloc s).rsp = s.rsp := by simp only [realloc]
@[simp] theorem realloc_irq (s : State) : (realloc s).irq = s.irq := by simp only [realloc]

/-! ### recalcLens -/

@[simp] theorem recalcLens_x (sel : Fin 44 → Bool) (s : State) : (recalcLens sel s).x = s.x := by simp only [recalcLens]
@[simp] theorem recalcLens_finL (sel : Fin 44 → Bool) (s : State) : (recalcLens sel s).finL = s.finL := by simp only [recalcLens]
@[simp] theorem recalcLens_finR (sel : Fin 44 → Bool) (s : State) : (recalcLens sel s).finR = s.finR := by simp only [recalcLens]
@[simp] theorem recalcLens_foutL (sel : Fin 44 → Bool) (s : State) : (recalcLens sel s).foutL = s.foutL := by simp only [recalcLens]
@[simp] theorem recalcLens_foutR (sel : Fin 44 → Bool) (s : State) : (recalcLens sel s).foutR = s.foutR := by simp only [recalcLens]
@[simp] theorem recalcLens_pc (sel : Fin 44 → Bool) (s : State) : (recalcLens sel s).pc = s.pc := by simp only [recalcLens]
@[simp] theorem recalcLens_pmem (sel : Fin 44 → Bool) (s : State) : (recalcLens sel s).pmem = s.pmem := by simp only [recalcLens]
@[simp] theorem recalcLens_err (sel : Fin 44 → Bool) (s : State) : (recalcLens sel s).err = s.err := by simp only [recalcLens]
@[simp] theorem recalcLens_cause (sel : Fin 44 → Bool) (s : State) : (recalcLens sel s).cause = s.cause := by simp only [recalcLens]
@[simp] theorem recalcLens_errWord (sel : Fin 44 → Bool) (s : State) : (recalcLens sel s).errWord = s.errWord := by simp only [recalcLens]
@[simp] theorem recalcLens_errPc (sel : Fin 44 → Bool) (s : State) : (recalcLens sel s).errPc = s.errPc := by simp only [recalcLens]
@[simp] theorem recalcLens_errIe (sel : Fin 44 → Bool) (s : State) : (recalcLens sel s).errIe = s.errIe := by simp only [recalcLens]
@[simp] theorem recalcLens_clampIe (sel : Fin 44 → Bool) (s : State) : (recalcLens sel s).clampIe = s.clampIe := by simp only [recalcLens]
@[simp] theorem recalcLens_fs (sel : Fin 44 → Bool) (s : State) : (recalcLens sel s).fs = s.fs := by simp only [recalcLens]
@[simp] theorem recalcLens_frameCnt (sel : Fin 44 → Bool) (s : State) :
    (recalcLens sel s).frameCnt = s.frameCnt := by simp only [recalcLens]
@[simp] theorem recalcLens_filters (sel : Fin 44 → Bool) (s : State) : (recalcLens sel s).filters = s.filters := by simp only [recalcLens]
@[simp] theorem recalcLens_combs (sel : Fin 44 → Bool) (s : State) : (recalcLens sel s).combs = s.combs := by simp only [recalcLens]
@[simp] theorem recalcLens_banks (sel : Fin 44 → Bool) (s : State) : (recalcLens sel s).banks = s.banks := by simp only [recalcLens]
@[simp] theorem recalcLens_chains (sel : Fin 44 → Bool) (s : State) : (recalcLens sel s).chains = s.chains := by simp only [recalcLens]
@[simp] theorem recalcLens_fdn (sel : Fin 44 → Bool) (s : State) : (recalcLens sel s).fdn = s.fdn := by simp only [recalcLens]
@[simp] theorem recalcLens_hostIn (sel : Fin 44 → Bool) (s : State) : (recalcLens sel s).hostIn = s.hostIn := by simp only [recalcLens]
@[simp] theorem recalcLens_rsp (sel : Fin 44 → Bool) (s : State) : (recalcLens sel s).rsp = s.rsp := by simp only [recalcLens]
@[simp] theorem recalcLens_irq (sel : Fin 44 → Bool) (s : State) : (recalcLens sel s).irq = s.irq := by simp only [recalcLens]

/-! ### recalcCoefs -/

@[simp] theorem recalcCoefs_x (sel : Fin 32 → Bool) (s : State) : (recalcCoefs sel s).x = s.x := by simp only [recalcCoefs]
@[simp] theorem recalcCoefs_finL (sel : Fin 32 → Bool) (s : State) : (recalcCoefs sel s).finL = s.finL := by simp only [recalcCoefs]
@[simp] theorem recalcCoefs_finR (sel : Fin 32 → Bool) (s : State) : (recalcCoefs sel s).finR = s.finR := by simp only [recalcCoefs]
@[simp] theorem recalcCoefs_foutL (sel : Fin 32 → Bool) (s : State) : (recalcCoefs sel s).foutL = s.foutL := by simp only [recalcCoefs]
@[simp] theorem recalcCoefs_foutR (sel : Fin 32 → Bool) (s : State) : (recalcCoefs sel s).foutR = s.foutR := by simp only [recalcCoefs]
@[simp] theorem recalcCoefs_pc (sel : Fin 32 → Bool) (s : State) : (recalcCoefs sel s).pc = s.pc := by simp only [recalcCoefs]
@[simp] theorem recalcCoefs_pmem (sel : Fin 32 → Bool) (s : State) : (recalcCoefs sel s).pmem = s.pmem := by simp only [recalcCoefs]
@[simp] theorem recalcCoefs_err (sel : Fin 32 → Bool) (s : State) : (recalcCoefs sel s).err = s.err := by simp only [recalcCoefs]
@[simp] theorem recalcCoefs_cause (sel : Fin 32 → Bool) (s : State) : (recalcCoefs sel s).cause = s.cause := by simp only [recalcCoefs]
@[simp] theorem recalcCoefs_errWord (sel : Fin 32 → Bool) (s : State) : (recalcCoefs sel s).errWord = s.errWord := by simp only [recalcCoefs]
@[simp] theorem recalcCoefs_errPc (sel : Fin 32 → Bool) (s : State) : (recalcCoefs sel s).errPc = s.errPc := by simp only [recalcCoefs]
@[simp] theorem recalcCoefs_errIe (sel : Fin 32 → Bool) (s : State) : (recalcCoefs sel s).errIe = s.errIe := by simp only [recalcCoefs]
@[simp] theorem recalcCoefs_clampIe (sel : Fin 32 → Bool) (s : State) : (recalcCoefs sel s).clampIe = s.clampIe := by simp only [recalcCoefs]
@[simp] theorem recalcCoefs_fs (sel : Fin 32 → Bool) (s : State) : (recalcCoefs sel s).fs = s.fs := by simp only [recalcCoefs]
@[simp] theorem recalcCoefs_frameCnt (sel : Fin 32 → Bool) (s : State) :
    (recalcCoefs sel s).frameCnt = s.frameCnt := by simp only [recalcCoefs]
@[simp] theorem recalcCoefs_lines (sel : Fin 32 → Bool) (s : State) : (recalcCoefs sel s).lines = s.lines := by simp only [recalcCoefs]
@[simp] theorem recalcCoefs_combs (sel : Fin 32 → Bool) (s : State) : (recalcCoefs sel s).combs = s.combs := by simp only [recalcCoefs]
@[simp] theorem recalcCoefs_banks (sel : Fin 32 → Bool) (s : State) : (recalcCoefs sel s).banks = s.banks := by simp only [recalcCoefs]
@[simp] theorem recalcCoefs_chains (sel : Fin 32 → Bool) (s : State) : (recalcCoefs sel s).chains = s.chains := by simp only [recalcCoefs]
@[simp] theorem recalcCoefs_fdn (sel : Fin 32 → Bool) (s : State) : (recalcCoefs sel s).fdn = s.fdn := by simp only [recalcCoefs]
@[simp] theorem recalcCoefs_hostIn (sel : Fin 32 → Bool) (s : State) : (recalcCoefs sel s).hostIn = s.hostIn := by simp only [recalcCoefs]
@[simp] theorem recalcCoefs_rsp (sel : Fin 32 → Bool) (s : State) : (recalcCoefs sel s).rsp = s.rsp := by simp only [recalcCoefs]
@[simp] theorem recalcCoefs_irq (sel : Fin 32 → Bool) (s : State) : (recalcCoefs sel s).irq = s.irq := by simp only [recalcCoefs]

/-! ### recalcCombs -/

@[simp] theorem recalcCombs_x (sel : Fin 16 → Bool) (s : State) : (recalcCombs sel s).x = s.x := by simp only [recalcCombs]
@[simp] theorem recalcCombs_finL (sel : Fin 16 → Bool) (s : State) : (recalcCombs sel s).finL = s.finL := by simp only [recalcCombs]
@[simp] theorem recalcCombs_finR (sel : Fin 16 → Bool) (s : State) : (recalcCombs sel s).finR = s.finR := by simp only [recalcCombs]
@[simp] theorem recalcCombs_foutL (sel : Fin 16 → Bool) (s : State) : (recalcCombs sel s).foutL = s.foutL := by simp only [recalcCombs]
@[simp] theorem recalcCombs_foutR (sel : Fin 16 → Bool) (s : State) : (recalcCombs sel s).foutR = s.foutR := by simp only [recalcCombs]
@[simp] theorem recalcCombs_pc (sel : Fin 16 → Bool) (s : State) : (recalcCombs sel s).pc = s.pc := by simp only [recalcCombs]
@[simp] theorem recalcCombs_pmem (sel : Fin 16 → Bool) (s : State) : (recalcCombs sel s).pmem = s.pmem := by simp only [recalcCombs]
@[simp] theorem recalcCombs_err (sel : Fin 16 → Bool) (s : State) : (recalcCombs sel s).err = s.err := by simp only [recalcCombs]
@[simp] theorem recalcCombs_cause (sel : Fin 16 → Bool) (s : State) : (recalcCombs sel s).cause = s.cause := by simp only [recalcCombs]
@[simp] theorem recalcCombs_errWord (sel : Fin 16 → Bool) (s : State) : (recalcCombs sel s).errWord = s.errWord := by simp only [recalcCombs]
@[simp] theorem recalcCombs_errPc (sel : Fin 16 → Bool) (s : State) : (recalcCombs sel s).errPc = s.errPc := by simp only [recalcCombs]
@[simp] theorem recalcCombs_errIe (sel : Fin 16 → Bool) (s : State) : (recalcCombs sel s).errIe = s.errIe := by simp only [recalcCombs]
@[simp] theorem recalcCombs_clampIe (sel : Fin 16 → Bool) (s : State) : (recalcCombs sel s).clampIe = s.clampIe := by simp only [recalcCombs]
@[simp] theorem recalcCombs_fs (sel : Fin 16 → Bool) (s : State) : (recalcCombs sel s).fs = s.fs := by simp only [recalcCombs]
@[simp] theorem recalcCombs_frameCnt (sel : Fin 16 → Bool) (s : State) :
    (recalcCombs sel s).frameCnt = s.frameCnt := by simp only [recalcCombs]
@[simp] theorem recalcCombs_lines (sel : Fin 16 → Bool) (s : State) : (recalcCombs sel s).lines = s.lines := by simp only [recalcCombs]
@[simp] theorem recalcCombs_filters (sel : Fin 16 → Bool) (s : State) : (recalcCombs sel s).filters = s.filters := by simp only [recalcCombs]
@[simp] theorem recalcCombs_banks (sel : Fin 16 → Bool) (s : State) : (recalcCombs sel s).banks = s.banks := by simp only [recalcCombs]
@[simp] theorem recalcCombs_chains (sel : Fin 16 → Bool) (s : State) : (recalcCombs sel s).chains = s.chains := by simp only [recalcCombs]
@[simp] theorem recalcCombs_fdn (sel : Fin 16 → Bool) (s : State) : (recalcCombs sel s).fdn = s.fdn := by simp only [recalcCombs]
@[simp] theorem recalcCombs_hostIn (sel : Fin 16 → Bool) (s : State) : (recalcCombs sel s).hostIn = s.hostIn := by simp only [recalcCombs]
@[simp] theorem recalcCombs_rsp (sel : Fin 16 → Bool) (s : State) : (recalcCombs sel s).rsp = s.rsp := by simp only [recalcCombs]
@[simp] theorem recalcCombs_irq (sel : Fin 16 → Bool) (s : State) : (recalcCombs sel s).irq = s.irq := by simp only [recalcCombs]

/-! ### recalcFdnGains -/

@[simp] theorem recalcFdnGains_x (sel : Fin 8 → Bool) (s : State) : (recalcFdnGains sel s).x = s.x := by simp only [recalcFdnGains]
@[simp] theorem recalcFdnGains_finL (sel : Fin 8 → Bool) (s : State) : (recalcFdnGains sel s).finL = s.finL := by simp only [recalcFdnGains]
@[simp] theorem recalcFdnGains_finR (sel : Fin 8 → Bool) (s : State) : (recalcFdnGains sel s).finR = s.finR := by simp only [recalcFdnGains]
@[simp] theorem recalcFdnGains_foutL (sel : Fin 8 → Bool) (s : State) : (recalcFdnGains sel s).foutL = s.foutL := by simp only [recalcFdnGains]
@[simp] theorem recalcFdnGains_foutR (sel : Fin 8 → Bool) (s : State) : (recalcFdnGains sel s).foutR = s.foutR := by simp only [recalcFdnGains]
@[simp] theorem recalcFdnGains_pc (sel : Fin 8 → Bool) (s : State) : (recalcFdnGains sel s).pc = s.pc := by simp only [recalcFdnGains]
@[simp] theorem recalcFdnGains_pmem (sel : Fin 8 → Bool) (s : State) : (recalcFdnGains sel s).pmem = s.pmem := by simp only [recalcFdnGains]
@[simp] theorem recalcFdnGains_err (sel : Fin 8 → Bool) (s : State) : (recalcFdnGains sel s).err = s.err := by simp only [recalcFdnGains]
@[simp] theorem recalcFdnGains_cause (sel : Fin 8 → Bool) (s : State) : (recalcFdnGains sel s).cause = s.cause := by simp only [recalcFdnGains]
@[simp] theorem recalcFdnGains_errWord (sel : Fin 8 → Bool) (s : State) :
    (recalcFdnGains sel s).errWord = s.errWord := by simp only [recalcFdnGains]
@[simp] theorem recalcFdnGains_errPc (sel : Fin 8 → Bool) (s : State) : (recalcFdnGains sel s).errPc = s.errPc := by simp only [recalcFdnGains]
@[simp] theorem recalcFdnGains_errIe (sel : Fin 8 → Bool) (s : State) : (recalcFdnGains sel s).errIe = s.errIe := by simp only [recalcFdnGains]
@[simp] theorem recalcFdnGains_clampIe (sel : Fin 8 → Bool) (s : State) :
    (recalcFdnGains sel s).clampIe = s.clampIe := by simp only [recalcFdnGains]
@[simp] theorem recalcFdnGains_fs (sel : Fin 8 → Bool) (s : State) : (recalcFdnGains sel s).fs = s.fs := by simp only [recalcFdnGains]
@[simp] theorem recalcFdnGains_frameCnt (sel : Fin 8 → Bool) (s : State) :
    (recalcFdnGains sel s).frameCnt = s.frameCnt := by simp only [recalcFdnGains]
@[simp] theorem recalcFdnGains_lines (sel : Fin 8 → Bool) (s : State) : (recalcFdnGains sel s).lines = s.lines := by simp only [recalcFdnGains]
@[simp] theorem recalcFdnGains_filters (sel : Fin 8 → Bool) (s : State) :
    (recalcFdnGains sel s).filters = s.filters := by simp only [recalcFdnGains]
@[simp] theorem recalcFdnGains_combs (sel : Fin 8 → Bool) (s : State) : (recalcFdnGains sel s).combs = s.combs := by simp only [recalcFdnGains]
@[simp] theorem recalcFdnGains_banks (sel : Fin 8 → Bool) (s : State) : (recalcFdnGains sel s).banks = s.banks := by simp only [recalcFdnGains]
@[simp] theorem recalcFdnGains_chains (sel : Fin 8 → Bool) (s : State) :
    (recalcFdnGains sel s).chains = s.chains := by simp only [recalcFdnGains]
@[simp] theorem recalcFdnGains_hostIn (sel : Fin 8 → Bool) (s : State) :
    (recalcFdnGains sel s).hostIn = s.hostIn := by simp only [recalcFdnGains]
@[simp] theorem recalcFdnGains_rsp (sel : Fin 8 → Bool) (s : State) : (recalcFdnGains sel s).rsp = s.rsp := by simp only [recalcFdnGains]
@[simp] theorem recalcFdnGains_irq (sel : Fin 8 → Bool) (s : State) : (recalcFdnGains sel s).irq = s.irq := by simp only [recalcFdnGains]

/-! ### recalcMods -/

@[simp] theorem recalcMods_x (s : State) : (recalcMods s).x = s.x := by simp only [recalcMods]
@[simp] theorem recalcMods_finL (s : State) : (recalcMods s).finL = s.finL := by simp only [recalcMods]
@[simp] theorem recalcMods_finR (s : State) : (recalcMods s).finR = s.finR := by simp only [recalcMods]
@[simp] theorem recalcMods_foutL (s : State) : (recalcMods s).foutL = s.foutL := by simp only [recalcMods]
@[simp] theorem recalcMods_foutR (s : State) : (recalcMods s).foutR = s.foutR := by simp only [recalcMods]
@[simp] theorem recalcMods_pc (s : State) : (recalcMods s).pc = s.pc := by simp only [recalcMods]
@[simp] theorem recalcMods_pmem (s : State) : (recalcMods s).pmem = s.pmem := by simp only [recalcMods]
@[simp] theorem recalcMods_err (s : State) : (recalcMods s).err = s.err := by simp only [recalcMods]
@[simp] theorem recalcMods_clamp (s : State) : (recalcMods s).clamp = s.clamp := by simp only [recalcMods]
@[simp] theorem recalcMods_cause (s : State) : (recalcMods s).cause = s.cause := by simp only [recalcMods]
@[simp] theorem recalcMods_errWord (s : State) : (recalcMods s).errWord = s.errWord := by simp only [recalcMods]
@[simp] theorem recalcMods_errPc (s : State) : (recalcMods s).errPc = s.errPc := by simp only [recalcMods]
@[simp] theorem recalcMods_errIe (s : State) : (recalcMods s).errIe = s.errIe := by simp only [recalcMods]
@[simp] theorem recalcMods_clampIe (s : State) : (recalcMods s).clampIe = s.clampIe := by simp only [recalcMods]
@[simp] theorem recalcMods_fs (s : State) : (recalcMods s).fs = s.fs := by simp only [recalcMods]
@[simp] theorem recalcMods_frameCnt (s : State) : (recalcMods s).frameCnt = s.frameCnt := by simp only [recalcMods]
@[simp] theorem recalcMods_lines (s : State) : (recalcMods s).lines = s.lines := by simp only [recalcMods]
@[simp] theorem recalcMods_filters (s : State) : (recalcMods s).filters = s.filters := by simp only [recalcMods]
@[simp] theorem recalcMods_combs (s : State) : (recalcMods s).combs = s.combs := by simp only [recalcMods]
@[simp] theorem recalcMods_banks (s : State) : (recalcMods s).banks = s.banks := by simp only [recalcMods]
@[simp] theorem recalcMods_chains (s : State) : (recalcMods s).chains = s.chains := by simp only [recalcMods]
@[simp] theorem recalcMods_hostIn (s : State) : (recalcMods s).hostIn = s.hostIn := by simp only [recalcMods]
@[simp] theorem recalcMods_rsp (s : State) : (recalcMods s).rsp = s.rsp := by simp only [recalcMods]
@[simp] theorem recalcMods_irq (s : State) : (recalcMods s).irq = s.irq := by simp only [recalcMods]

/-! ### combStep -/

@[simp] theorem combStep_x (c : Fin 16) (v : F32) (s : State) : (combStep c v s).x = s.x := rfl
@[simp] theorem combStep_finL (c : Fin 16) (v : F32) (s : State) : (combStep c v s).finL = s.finL := rfl
@[simp] theorem combStep_finR (c : Fin 16) (v : F32) (s : State) : (combStep c v s).finR = s.finR := rfl
@[simp] theorem combStep_foutL (c : Fin 16) (v : F32) (s : State) : (combStep c v s).foutL = s.foutL := rfl
@[simp] theorem combStep_foutR (c : Fin 16) (v : F32) (s : State) : (combStep c v s).foutR = s.foutR := rfl
@[simp] theorem combStep_pc (c : Fin 16) (v : F32) (s : State) : (combStep c v s).pc = s.pc := rfl
@[simp] theorem combStep_pmem (c : Fin 16) (v : F32) (s : State) : (combStep c v s).pmem = s.pmem := rfl
@[simp] theorem combStep_err (c : Fin 16) (v : F32) (s : State) : (combStep c v s).err = s.err := rfl
@[simp] theorem combStep_clamp (c : Fin 16) (v : F32) (s : State) : (combStep c v s).clamp = s.clamp := rfl
@[simp] theorem combStep_cause (c : Fin 16) (v : F32) (s : State) : (combStep c v s).cause = s.cause := rfl
@[simp] theorem combStep_errWord (c : Fin 16) (v : F32) (s : State) : (combStep c v s).errWord = s.errWord := rfl
@[simp] theorem combStep_errPc (c : Fin 16) (v : F32) (s : State) : (combStep c v s).errPc = s.errPc := rfl
@[simp] theorem combStep_errIe (c : Fin 16) (v : F32) (s : State) : (combStep c v s).errIe = s.errIe := rfl
@[simp] theorem combStep_clampIe (c : Fin 16) (v : F32) (s : State) : (combStep c v s).clampIe = s.clampIe := rfl
@[simp] theorem combStep_fs (c : Fin 16) (v : F32) (s : State) : (combStep c v s).fs = s.fs := rfl
@[simp] theorem combStep_frameCnt (c : Fin 16) (v : F32) (s : State) : (combStep c v s).frameCnt = s.frameCnt := rfl
@[simp] theorem combStep_lines (c : Fin 16) (v : F32) (s : State) :
    (combStep c v s).lines = s.lines.set (cbl c) (combLine s c v) := rfl
@[simp] theorem combStep_filters (c : Fin 16) (v : F32) (s : State) :
    (combStep c v s).filters = s.filters.set (cbf c) (combFilter s c) := rfl
@[simp] theorem combStep_combs (c : Fin 16) (v : F32) (s : State) : (combStep c v s).combs = s.combs := rfl
@[simp] theorem combStep_banks (c : Fin 16) (v : F32) (s : State) : (combStep c v s).banks = s.banks := rfl
@[simp] theorem combStep_chains (c : Fin 16) (v : F32) (s : State) : (combStep c v s).chains = s.chains := rfl
@[simp] theorem combStep_fdn (c : Fin 16) (v : F32) (s : State) : (combStep c v s).fdn = s.fdn := rfl
@[simp] theorem combStep_hostIn (c : Fin 16) (v : F32) (s : State) : (combStep c v s).hostIn = s.hostIn := rfl
@[simp] theorem combStep_rsp (c : Fin 16) (v : F32) (s : State) : (combStep c v s).rsp = s.rsp := rfl
@[simp] theorem combStep_irq (c : Fin 16) (v : F32) (s : State) : (combStep c v s).irq = s.irq := rfl

/-! ### apStep -/

@[simp] theorem apStep_x (a : Fin 16) (v : F32) (s : State) : (apStep a v s).x = s.x := rfl
@[simp] theorem apStep_finL (a : Fin 16) (v : F32) (s : State) : (apStep a v s).finL = s.finL := rfl
@[simp] theorem apStep_finR (a : Fin 16) (v : F32) (s : State) : (apStep a v s).finR = s.finR := rfl
@[simp] theorem apStep_foutL (a : Fin 16) (v : F32) (s : State) : (apStep a v s).foutL = s.foutL := rfl
@[simp] theorem apStep_foutR (a : Fin 16) (v : F32) (s : State) : (apStep a v s).foutR = s.foutR := rfl
@[simp] theorem apStep_pc (a : Fin 16) (v : F32) (s : State) : (apStep a v s).pc = s.pc := rfl
@[simp] theorem apStep_pmem (a : Fin 16) (v : F32) (s : State) : (apStep a v s).pmem = s.pmem := rfl
@[simp] theorem apStep_err (a : Fin 16) (v : F32) (s : State) : (apStep a v s).err = s.err := rfl
@[simp] theorem apStep_clamp (a : Fin 16) (v : F32) (s : State) : (apStep a v s).clamp = s.clamp := rfl
@[simp] theorem apStep_cause (a : Fin 16) (v : F32) (s : State) : (apStep a v s).cause = s.cause := rfl
@[simp] theorem apStep_errWord (a : Fin 16) (v : F32) (s : State) : (apStep a v s).errWord = s.errWord := rfl
@[simp] theorem apStep_errPc (a : Fin 16) (v : F32) (s : State) : (apStep a v s).errPc = s.errPc := rfl
@[simp] theorem apStep_errIe (a : Fin 16) (v : F32) (s : State) : (apStep a v s).errIe = s.errIe := rfl
@[simp] theorem apStep_clampIe (a : Fin 16) (v : F32) (s : State) : (apStep a v s).clampIe = s.clampIe := rfl
@[simp] theorem apStep_fs (a : Fin 16) (v : F32) (s : State) : (apStep a v s).fs = s.fs := rfl
@[simp] theorem apStep_frameCnt (a : Fin 16) (v : F32) (s : State) : (apStep a v s).frameCnt = s.frameCnt := rfl
@[simp] theorem apStep_lines (a : Fin 16) (v : F32) (s : State) :
    (apStep a v s).lines = s.lines.set (apl a) (dlWrite s.lines[apl a] (apFeed s a v)) := rfl
@[simp] theorem apStep_filters (a : Fin 16) (v : F32) (s : State) : (apStep a v s).filters = s.filters := rfl
@[simp] theorem apStep_combs (a : Fin 16) (v : F32) (s : State) : (apStep a v s).combs = s.combs := rfl
@[simp] theorem apStep_banks (a : Fin 16) (v : F32) (s : State) : (apStep a v s).banks = s.banks := rfl
@[simp] theorem apStep_chains (a : Fin 16) (v : F32) (s : State) : (apStep a v s).chains = s.chains := rfl
@[simp] theorem apStep_fdn (a : Fin 16) (v : F32) (s : State) : (apStep a v s).fdn = s.fdn := rfl
@[simp] theorem apStep_hostIn (a : Fin 16) (v : F32) (s : State) : (apStep a v s).hostIn = s.hostIn := rfl
@[simp] theorem apStep_rsp (a : Fin 16) (v : F32) (s : State) : (apStep a v s).rsp = s.rsp := rfl
@[simp] theorem apStep_irq (a : Fin 16) (v : F32) (s : State) : (apStep a v s).irq = s.irq := rfl

/-! ### fdnStep -/

@[simp] theorem fdnStep_x (xL xR m : F32) (s : State) : (fdnStep xL xR m s).x = s.x := by simp only [fdnStep]
@[simp] theorem fdnStep_finL (xL xR m : F32) (s : State) : (fdnStep xL xR m s).finL = s.finL := by simp only [fdnStep]
@[simp] theorem fdnStep_finR (xL xR m : F32) (s : State) : (fdnStep xL xR m s).finR = s.finR := by simp only [fdnStep]
@[simp] theorem fdnStep_foutL (xL xR m : F32) (s : State) : (fdnStep xL xR m s).foutL = s.foutL := by simp only [fdnStep]
@[simp] theorem fdnStep_foutR (xL xR m : F32) (s : State) : (fdnStep xL xR m s).foutR = s.foutR := by simp only [fdnStep]
@[simp] theorem fdnStep_pc (xL xR m : F32) (s : State) : (fdnStep xL xR m s).pc = s.pc := by simp only [fdnStep]
@[simp] theorem fdnStep_pmem (xL xR m : F32) (s : State) : (fdnStep xL xR m s).pmem = s.pmem := by simp only [fdnStep]
@[simp] theorem fdnStep_err (xL xR m : F32) (s : State) : (fdnStep xL xR m s).err = s.err := by simp only [fdnStep]
@[simp] theorem fdnStep_clamp (xL xR m : F32) (s : State) : (fdnStep xL xR m s).clamp = s.clamp := by simp only [fdnStep]
@[simp] theorem fdnStep_cause (xL xR m : F32) (s : State) : (fdnStep xL xR m s).cause = s.cause := by simp only [fdnStep]
@[simp] theorem fdnStep_errWord (xL xR m : F32) (s : State) : (fdnStep xL xR m s).errWord = s.errWord := by simp only [fdnStep]
@[simp] theorem fdnStep_errPc (xL xR m : F32) (s : State) : (fdnStep xL xR m s).errPc = s.errPc := by simp only [fdnStep]
@[simp] theorem fdnStep_errIe (xL xR m : F32) (s : State) : (fdnStep xL xR m s).errIe = s.errIe := by simp only [fdnStep]
@[simp] theorem fdnStep_clampIe (xL xR m : F32) (s : State) : (fdnStep xL xR m s).clampIe = s.clampIe := by simp only [fdnStep]
@[simp] theorem fdnStep_fs (xL xR m : F32) (s : State) : (fdnStep xL xR m s).fs = s.fs := by simp only [fdnStep]
@[simp] theorem fdnStep_frameCnt (xL xR m : F32) (s : State) : (fdnStep xL xR m s).frameCnt = s.frameCnt := by simp only [fdnStep]
@[simp] theorem fdnStep_combs (xL xR m : F32) (s : State) : (fdnStep xL xR m s).combs = s.combs := by simp only [fdnStep]
@[simp] theorem fdnStep_banks (xL xR m : F32) (s : State) : (fdnStep xL xR m s).banks = s.banks := by simp only [fdnStep]
@[simp] theorem fdnStep_chains (xL xR m : F32) (s : State) : (fdnStep xL xR m s).chains = s.chains := by simp only [fdnStep]
@[simp] theorem fdnStep_fdn (xL xR m : F32) (s : State) : (fdnStep xL xR m s).fdn = s.fdn := by simp only [fdnStep]
@[simp] theorem fdnStep_hostIn (xL xR m : F32) (s : State) : (fdnStep xL xR m s).hostIn = s.hostIn := by simp only [fdnStep]
@[simp] theorem fdnStep_rsp (xL xR m : F32) (s : State) : (fdnStep xL xR m s).rsp = s.rsp := by simp only [fdnStep]
@[simp] theorem fdnStep_irq (xL xR m : F32) (s : State) : (fdnStep xL xR m s).irq = s.irq := by simp only [fdnStep]

/-! ### recordError -/

@[simp] theorem recordError_x (k : Cause) (w : Word) (s : State) :
    (recordError k w s).x = s.x := by unfold recordError; split <;> rfl
@[simp] theorem recordError_finL (k : Cause) (w : Word) (s : State) :
    (recordError k w s).finL = s.finL := by unfold recordError; split <;> rfl
@[simp] theorem recordError_finR (k : Cause) (w : Word) (s : State) :
    (recordError k w s).finR = s.finR := by unfold recordError; split <;> rfl
@[simp] theorem recordError_foutL (k : Cause) (w : Word) (s : State) :
    (recordError k w s).foutL = s.foutL := by unfold recordError; split <;> rfl
@[simp] theorem recordError_foutR (k : Cause) (w : Word) (s : State) :
    (recordError k w s).foutR = s.foutR := by unfold recordError; split <;> rfl
@[simp] theorem recordError_pc (k : Cause) (w : Word) (s : State) :
    (recordError k w s).pc = s.pc := by unfold recordError; split <;> rfl
@[simp] theorem recordError_pmem (k : Cause) (w : Word) (s : State) :
    (recordError k w s).pmem = s.pmem := by unfold recordError; split <;> rfl
@[simp] theorem recordError_err (k : Cause) (w : Word) (s : State) :
    (recordError k w s).err = true := by unfold recordError; split <;> simp_all
@[simp] theorem recordError_clamp (k : Cause) (w : Word) (s : State) :
    (recordError k w s).clamp = s.clamp := by unfold recordError; split <;> rfl
@[simp] theorem recordError_errIe (k : Cause) (w : Word) (s : State) :
    (recordError k w s).errIe = s.errIe := by unfold recordError; split <;> rfl
@[simp] theorem recordError_clampIe (k : Cause) (w : Word) (s : State) :
    (recordError k w s).clampIe = s.clampIe := by unfold recordError; split <;> rfl
@[simp] theorem recordError_fs (k : Cause) (w : Word) (s : State) :
    (recordError k w s).fs = s.fs := by unfold recordError; split <;> rfl
@[simp] theorem recordError_frameCnt (k : Cause) (w : Word) (s : State) :
    (recordError k w s).frameCnt = s.frameCnt := by unfold recordError; split <;> rfl
@[simp] theorem recordError_lines (k : Cause) (w : Word) (s : State) :
    (recordError k w s).lines = s.lines := by unfold recordError; split <;> rfl
@[simp] theorem recordError_filters (k : Cause) (w : Word) (s : State) :
    (recordError k w s).filters = s.filters := by unfold recordError; split <;> rfl
@[simp] theorem recordError_combs (k : Cause) (w : Word) (s : State) :
    (recordError k w s).combs = s.combs := by unfold recordError; split <;> rfl
@[simp] theorem recordError_banks (k : Cause) (w : Word) (s : State) :
    (recordError k w s).banks = s.banks := by unfold recordError; split <;> rfl
@[simp] theorem recordError_chains (k : Cause) (w : Word) (s : State) :
    (recordError k w s).chains = s.chains := by unfold recordError; split <;> rfl
@[simp] theorem recordError_fdn (k : Cause) (w : Word) (s : State) :
    (recordError k w s).fdn = s.fdn := by unfold recordError; split <;> rfl
@[simp] theorem recordError_hostIn (k : Cause) (w : Word) (s : State) :
    (recordError k w s).hostIn = s.hostIn := by unfold recordError; split <;> rfl
@[simp] theorem recordError_rsp (k : Cause) (w : Word) (s : State) :
    (recordError k w s).rsp = s.rsp := by unfold recordError; split <;> rfl
@[simp] theorem recordError_irq (k : Cause) (w : Word) (s : State) :
    (recordError k w s).irq = s.irq := by unfold recordError; split <;> rfl

/-! ### settle -/

@[simp] theorem settle_x (s : State) : (settle s).x = s.x := by unfold settle; split <;> rfl
@[simp] theorem settle_finL (s : State) : (settle s).finL = s.finL := by unfold settle; split <;> rfl
@[simp] theorem settle_finR (s : State) : (settle s).finR = s.finR := by unfold settle; split <;> rfl
@[simp] theorem settle_foutL (s : State) : (settle s).foutL = s.foutL := by unfold settle; split <;> rfl
@[simp] theorem settle_foutR (s : State) : (settle s).foutR = s.foutR := by unfold settle; split <;> rfl
@[simp] theorem settle_pc (s : State) : (settle s).pc = s.pc := by unfold settle; split <;> rfl
@[simp] theorem settle_pmem (s : State) : (settle s).pmem = s.pmem := by unfold settle; split <;> rfl
@[simp] theorem settle_err (s : State) : (settle s).err = s.err := by unfold settle; split <;> rfl
@[simp] theorem settle_clamp (s : State) : (settle s).clamp = s.clamp := by unfold settle; split <;> rfl
@[simp] theorem settle_cause (s : State) : (settle s).cause = s.cause := by unfold settle; split <;> rfl
@[simp] theorem settle_errWord (s : State) : (settle s).errWord = s.errWord := by unfold settle; split <;> rfl
@[simp] theorem settle_errPc (s : State) : (settle s).errPc = s.errPc := by unfold settle; split <;> rfl
@[simp] theorem settle_errIe (s : State) : (settle s).errIe = s.errIe := by unfold settle; split <;> rfl
@[simp] theorem settle_clampIe (s : State) : (settle s).clampIe = s.clampIe := by unfold settle; split <;> rfl
@[simp] theorem settle_fs (s : State) : (settle s).fs = s.fs := by unfold settle; split <;> rfl
@[simp] theorem settle_frameCnt (s : State) : (settle s).frameCnt = s.frameCnt := by unfold settle; split <;> rfl
@[simp] theorem settle_lines (s : State) : (settle s).lines = s.lines := by unfold settle; split <;> rfl
@[simp] theorem settle_filters (s : State) : (settle s).filters = s.filters := by unfold settle; split <;> rfl
@[simp] theorem settle_combs (s : State) : (settle s).combs = s.combs := by unfold settle; split <;> rfl
@[simp] theorem settle_banks (s : State) : (settle s).banks = s.banks := by unfold settle; split <;> rfl
@[simp] theorem settle_chains (s : State) : (settle s).chains = s.chains := by unfold settle; split <;> rfl
@[simp] theorem settle_fdn (s : State) : (settle s).fdn = s.fdn := by unfold settle; split <;> rfl
@[simp] theorem settle_hostIn (s : State) : (settle s).hostIn = s.hostIn := by unfold settle; split <;> rfl
@[simp] theorem settle_rsp (s : State) : (settle s).rsp = s.rsp := by unfold settle; split <;> rfl

/-! ### consume -/

@[simp] theorem consume_x (n : Nat) (s : State) : (consume n s).x = s.x := rfl
@[simp] theorem consume_finL (n : Nat) (s : State) : (consume n s).finL = s.finL := rfl
@[simp] theorem consume_finR (n : Nat) (s : State) : (consume n s).finR = s.finR := rfl
@[simp] theorem consume_foutL (n : Nat) (s : State) : (consume n s).foutL = s.foutL := rfl
@[simp] theorem consume_foutR (n : Nat) (s : State) : (consume n s).foutR = s.foutR := rfl
@[simp] theorem consume_pc (n : Nat) (s : State) : (consume n s).pc = s.pc := rfl
@[simp] theorem consume_pmem (n : Nat) (s : State) : (consume n s).pmem = s.pmem := rfl
@[simp] theorem consume_err (n : Nat) (s : State) : (consume n s).err = s.err := rfl
@[simp] theorem consume_clamp (n : Nat) (s : State) : (consume n s).clamp = s.clamp := rfl
@[simp] theorem consume_cause (n : Nat) (s : State) : (consume n s).cause = s.cause := rfl
@[simp] theorem consume_errWord (n : Nat) (s : State) : (consume n s).errWord = s.errWord := rfl
@[simp] theorem consume_errPc (n : Nat) (s : State) : (consume n s).errPc = s.errPc := rfl
@[simp] theorem consume_errIe (n : Nat) (s : State) : (consume n s).errIe = s.errIe := rfl
@[simp] theorem consume_clampIe (n : Nat) (s : State) : (consume n s).clampIe = s.clampIe := rfl
@[simp] theorem consume_fs (n : Nat) (s : State) : (consume n s).fs = s.fs := rfl
@[simp] theorem consume_frameCnt (n : Nat) (s : State) : (consume n s).frameCnt = s.frameCnt := rfl
@[simp] theorem consume_lines (n : Nat) (s : State) : (consume n s).lines = s.lines := rfl
@[simp] theorem consume_filters (n : Nat) (s : State) : (consume n s).filters = s.filters := rfl
@[simp] theorem consume_combs (n : Nat) (s : State) : (consume n s).combs = s.combs := rfl
@[simp] theorem consume_banks (n : Nat) (s : State) : (consume n s).banks = s.banks := rfl
@[simp] theorem consume_chains (n : Nat) (s : State) : (consume n s).chains = s.chains := rfl
@[simp] theorem consume_fdn (n : Nat) (s : State) : (consume n s).fdn = s.fdn := rfl
@[simp] theorem consume_rsp (n : Nat) (s : State) : (consume n s).rsp = s.rsp := rfl
@[simp] theorem consume_irq (n : Nat) (s : State) : (consume n s).irq = s.irq := rfl
@[simp] theorem consume_hostIn (n : Nat) (s : State) : (consume n s).hostIn = s.hostIn.drop n := rfl

/-! ### advancePc -/

@[simp] theorem advancePc_x (n : Nat) (s : State) : (advancePc n s).x = s.x := rfl
@[simp] theorem advancePc_finL (n : Nat) (s : State) : (advancePc n s).finL = s.finL := rfl
@[simp] theorem advancePc_finR (n : Nat) (s : State) : (advancePc n s).finR = s.finR := rfl
@[simp] theorem advancePc_foutL (n : Nat) (s : State) : (advancePc n s).foutL = s.foutL := rfl
@[simp] theorem advancePc_foutR (n : Nat) (s : State) : (advancePc n s).foutR = s.foutR := rfl
@[simp] theorem advancePc_pmem (n : Nat) (s : State) : (advancePc n s).pmem = s.pmem := rfl
@[simp] theorem advancePc_err (n : Nat) (s : State) : (advancePc n s).err = s.err := rfl
@[simp] theorem advancePc_clamp (n : Nat) (s : State) : (advancePc n s).clamp = s.clamp := rfl
@[simp] theorem advancePc_cause (n : Nat) (s : State) : (advancePc n s).cause = s.cause := rfl
@[simp] theorem advancePc_errWord (n : Nat) (s : State) : (advancePc n s).errWord = s.errWord := rfl
@[simp] theorem advancePc_errPc (n : Nat) (s : State) : (advancePc n s).errPc = s.errPc := rfl
@[simp] theorem advancePc_errIe (n : Nat) (s : State) : (advancePc n s).errIe = s.errIe := rfl
@[simp] theorem advancePc_clampIe (n : Nat) (s : State) : (advancePc n s).clampIe = s.clampIe := rfl
@[simp] theorem advancePc_fs (n : Nat) (s : State) : (advancePc n s).fs = s.fs := rfl
@[simp] theorem advancePc_frameCnt (n : Nat) (s : State) : (advancePc n s).frameCnt = s.frameCnt := rfl
@[simp] theorem advancePc_lines (n : Nat) (s : State) : (advancePc n s).lines = s.lines := rfl
@[simp] theorem advancePc_filters (n : Nat) (s : State) : (advancePc n s).filters = s.filters := rfl
@[simp] theorem advancePc_combs (n : Nat) (s : State) : (advancePc n s).combs = s.combs := rfl
@[simp] theorem advancePc_banks (n : Nat) (s : State) : (advancePc n s).banks = s.banks := rfl
@[simp] theorem advancePc_chains (n : Nat) (s : State) : (advancePc n s).chains = s.chains := rfl
@[simp] theorem advancePc_fdn (n : Nat) (s : State) : (advancePc n s).fdn = s.fdn := rfl
@[simp] theorem advancePc_hostIn (n : Nat) (s : State) : (advancePc n s).hostIn = s.hostIn := rfl
@[simp] theorem advancePc_rsp (n : Nat) (s : State) : (advancePc n s).rsp = s.rsp := rfl
@[simp] theorem advancePc_irq (n : Nat) (s : State) : (advancePc n s).irq = s.irq := rfl
@[simp] theorem advancePc_pc (n : Nat) (s : State) : (advancePc n s).pc = s.pc.map fun p => p + n := rfl

/-! ### startFrame -/

@[simp] theorem startFrame_x (l r : Word) (s : State) : (startFrame l r s).x = s.x := rfl
@[simp] theorem startFrame_pmem (l r : Word) (s : State) : (startFrame l r s).pmem = s.pmem := rfl
@[simp] theorem startFrame_err (l r : Word) (s : State) : (startFrame l r s).err = s.err := rfl
@[simp] theorem startFrame_clamp (l r : Word) (s : State) : (startFrame l r s).clamp = s.clamp := rfl
@[simp] theorem startFrame_cause (l r : Word) (s : State) : (startFrame l r s).cause = s.cause := rfl
@[simp] theorem startFrame_errWord (l r : Word) (s : State) : (startFrame l r s).errWord = s.errWord := rfl
@[simp] theorem startFrame_errPc (l r : Word) (s : State) : (startFrame l r s).errPc = s.errPc := rfl
@[simp] theorem startFrame_errIe (l r : Word) (s : State) : (startFrame l r s).errIe = s.errIe := rfl
@[simp] theorem startFrame_clampIe (l r : Word) (s : State) : (startFrame l r s).clampIe = s.clampIe := rfl
@[simp] theorem startFrame_fs (l r : Word) (s : State) : (startFrame l r s).fs = s.fs := rfl
@[simp] theorem startFrame_frameCnt (l r : Word) (s : State) : (startFrame l r s).frameCnt = s.frameCnt := rfl
@[simp] theorem startFrame_lines (l r : Word) (s : State) : (startFrame l r s).lines = s.lines := rfl
@[simp] theorem startFrame_filters (l r : Word) (s : State) : (startFrame l r s).filters = s.filters := rfl
@[simp] theorem startFrame_combs (l r : Word) (s : State) : (startFrame l r s).combs = s.combs := rfl
@[simp] theorem startFrame_banks (l r : Word) (s : State) : (startFrame l r s).banks = s.banks := rfl
@[simp] theorem startFrame_chains (l r : Word) (s : State) : (startFrame l r s).chains = s.chains := rfl
@[simp] theorem startFrame_fdn (l r : Word) (s : State) : (startFrame l r s).fdn = s.fdn := rfl
@[simp] theorem startFrame_hostIn (l r : Word) (s : State) : (startFrame l r s).hostIn = s.hostIn := rfl
@[simp] theorem startFrame_rsp (l r : Word) (s : State) : (startFrame l r s).rsp = s.rsp := rfl
@[simp] theorem startFrame_irq (l r : Word) (s : State) : (startFrame l r s).irq = s.irq := rfl
@[simp] theorem startFrame_finL (l r : Word) (s : State) : (startFrame l r s).finL = F32.sanitise l := rfl
@[simp] theorem startFrame_finR (l r : Word) (s : State) : (startFrame l r s).finR = F32.sanitise r := rfl
@[simp] theorem startFrame_foutL (l r : Word) (s : State) : (startFrame l r s).foutL = F32.zero := rfl
@[simp] theorem startFrame_foutR (l r : Word) (s : State) : (startFrame l r s).foutR = F32.zero := rfl
@[simp] theorem startFrame_pc (l r : Word) (s : State) : (startFrame l r s).pc = some 0 := rfl

end Sys2Proof.Machine
end

