-- ==== Sys2Proof/Laws/Ops.lean ====
section
/-! SUPPORT. One lemma per shared operation that says what it does, so that later proofs need not unfold it. -/

namespace Sys2Proof.Machine

open Sys2Proof

/-! ### Contexts, errors and the response queue -/

/-- In the host stream a host-only command has its effect. -/
theorem hostOnly_host {s : State} (h : s.pc = none) (i : Instr) (t : State) : hostOnly i s t = t := by
  simp only [hostOnly, h]

/-- In a frame program a host-only command is CONTEXT. -/
theorem hostOnly_program {s : State} {p : Nat} (h : s.pc = some p) (i : Instr) (t : State) :
    hostOnly i s t = raiseError .context i s := by
  simp only [hostOnly, h]

/-- All that recording an error can do (spec/60_exceptions.md R404). -/
theorem recordError_cases (k : Cause) (w : Word) (s : State) :
    (s.err = true ∧ recordError k w s = s) ∨
    (s.err = false ∧
      recordError k w s = { s with err := true, cause := some k, errWord := w, errPc := errPcOf s }) := by
  unfold recordError
  cases h : s.err <;> simp

/-- All that the end of a command can do: wait at an emit, or let the IRQ level follow the flags. -/
theorem settle_cases (s : State) :
    (stalled s = true ∧ settle s = s) ∨ (stalled s = false ∧ settle s = { s with irq := irqLevel s }) := by
  unfold settle updateIrq
  cases h : stalled s <;> simp

/-- The words past the first n of a list are what dropping n leaves. -/
theorem beyond_eq_drop (ws : List Word) (n : Nat) : beyond ws n = ws.drop n := by
  induction ws generalizing n with
  | nil => simp [beyond]
  | cons w ws ih =>
    cases n with
    | zero => rfl
    | succ n => simpa [beyond] using ih n

/-- The words the sequencer waits with are those behind the full queue. -/
theorem heldWords_eq_drop (s : State) : heldWords s = s.rsp.drop Config.rspDepth := beyond_eq_drop _ _

/-! ### Replacing one unit -/

theorem setLine_line (l k : Fin 44) (ln : Line) (s : State) :
    (setLine l ln s).lines[k] = if l = k then ln else s.lines[k] := by
  simp [setLine, Fin.getElem_fin, Vector.getElem_set, Fin.ext_iff]

theorem setFilter_filter (f g : Fin 32) (fl : Filter) (s : State) :
    (setFilter f fl s).filters[g] = if f = g then fl else s.filters[g] := by
  simp [setFilter, Fin.getElem_fin, Vector.getElem_set, Fin.ext_iff]

/-! ### Recomputing -/

theorem realloc_line (s : State) (l : Fin 44) : (realloc s).lines[l] = reallocLine s.fs l s.lines[l] := by
  simp [realloc, Fin.getElem_fin]

theorem realloc_clamp (s : State) :
    (realloc s).clamp = true ↔ s.clamp = true ∨ ∃ l : Fin 44, (capCalc s.fs l s.lines[l].maxMs).2 = true := by
  simp [realloc, List.any_eq_true]

theorem recalcLens_line (sel : Fin 44 → Bool) (s : State) (l : Fin 44) :
    (recalcLens sel s).lines[l] = if sel l then { s.lines[l] with len := (lenOf s l).1 } else s.lines[l] := by
  simp [recalcLens, Fin.getElem_fin]

theorem recalcLens_clamp (sel : Fin 44 → Bool) (s : State) :
    (recalcLens sel s).clamp = true ↔ s.clamp = true ∨ ∃ l : Fin 44, sel l = true ∧ (lenOf s l).2 = true := by
  simp [recalcLens, List.any_eq_true]

theorem recalcCoefs_filter (sel : Fin 32 → Bool) (s : State) (f : Fin 32) :
    (recalcCoefs sel s).filters[f] =
      if sel f then { s.filters[f] with co := (coefCalc s.fs s.filters[f]).1 } else s.filters[f] := by
  simp [recalcCoefs, Fin.getElem_fin]

theorem recalcCoefs_clamp (sel : Fin 32 → Bool) (s : State) :
    (recalcCoefs sel s).clamp = true ↔
      s.clamp = true ∨ ∃ f : Fin 32, sel f = true ∧ (coefCalc s.fs s.filters[f]).2 = true := by
  simp [recalcCoefs, List.any_eq_true]

theorem clearFilters_filter (s : State) (f : Fin 32) :
    (clearFilters s).filters[f] = { s.filters[f] with s1 := F32.zero, s2 := F32.zero } := by
  simp [clearFilters, Fin.getElem_fin]

theorem recalcCombs_comb (sel : Fin 16 → Bool) (s : State) (c : Fin 16) :
    (recalcCombs sel s).combs[c] = if sel c then { s.combs[c] with fb := (combGainOf s c).1 } else s.combs[c] := by
  simp [recalcCombs, Fin.getElem_fin]

theorem recalcCombs_clamp (sel : Fin 16 → Bool) (s : State) :
    (recalcCombs sel s).clamp = true ↔ s.clamp = true ∨ ∃ c : Fin 16, sel c = true ∧ (combGainOf s c).2 = true := by
  simp [recalcCombs, List.any_eq_true]

theorem recalcFdnGains_gain (sel : Fin 8 → Bool) (s : State) (i : Fin 8) :
    (recalcFdnGains sel s).fdn.g[i] = if sel i then (fdnGainOf s i).1 else s.fdn.g[i] := by
  simp [recalcFdnGains, Fin.getElem_fin]

theorem recalcFdnGains_clamp (sel : Fin 8 → Bool) (s : State) :
    (recalcFdnGains sel s).clamp = true ↔ s.clamp = true ∨ ∃ i : Fin 8, sel i = true ∧ (fdnGainOf s i).2 = true := by
  simp [recalcFdnGains, List.any_eq_true]

/-! ### Stepping units -/

theorem combStep_line (c : Fin 16) (x : F32) (s : State) (l : Fin 44) :
    (combStep c x s).lines[l] = if cbl c = l then combLine s c x else s.lines[l] := by
  rw [combStep, setFilter_lines, setLine_line]

theorem combStep_filter (c : Fin 16) (x : F32) (s : State) (f : Fin 32) :
    (combStep c x s).filters[f] = if cbf c = f then combFilter s c else s.filters[f] := by
  rw [combStep, setFilter_filter, setLine_filters]

theorem apStep_line (a : Fin 16) (x : F32) (s : State) (l : Fin 44) :
    (apStep a x s).lines[l] = if apl a = l then dlWrite s.lines[apl a] (apFeed s a x) else s.lines[l] := by
  rw [apStep, setLine_line]

theorem cbl_injective {c d : Fin 16} (h : cbl c = cbl d) : c = d := by
  simp only [cbl, Fin.mk.injEq] at h
  exact Fin.ext (by omega)

theorem apl_injective {a b : Fin 16} (h : apl a = apl b) : a = b := by
  simp only [apl, Fin.mk.injEq] at h
  exact Fin.ext (by omega)

theorem fdl_injective {i j : Fin 8} (h : fdl i = fdl j) : i = j := by
  simp only [fdl, Fin.mk.injEq] at h
  exact Fin.ext (by omega)

theorem cbf_injective {c d : Fin 16} (h : cbf c = cbf d) : c = d := by
  simp only [cbf, Fin.mk.injEq] at h
  exact Fin.ext (by omega)

theorem fdf_injective {i j : Fin 8} (h : fdf i = fdf j) : i = j := by
  simp only [fdf, Fin.mk.injEq] at h
  exact Fin.ext (by omega)

/-- A comb unit sees nothing of a step of another unit. -/
theorem combDamped_combStep {c d : Fin 16} (h : c ≠ d) (x : F32) (s : State) :
    combTap (combStep c x s) d = combTap s d ∧ combDamped (combStep c x s) d = combDamped s d := by
  have hl : (combStep c x s).lines[cbl d] = s.lines[cbl d] := by
    rw [combStep_line, if_neg fun e => h (cbl_injective e)]
  have hf : (combStep c x s).filters[cbf d] = s.filters[cbf d] := by
    rw [combStep_filter, if_neg fun e => h (cbf_injective e)]
  have ht : combTap (combStep c x s) d = combTap s d := by rw [combTap, combTap, hl]
  exact ⟨ht, by rw [combDamped, combDamped, hf, ht]⟩

/-- The line and the filter a comb step gives a unit do not depend on steps of other units. -/
theorem combLine_combStep {c d : Fin 16} (h : c ≠ d) (x y : F32) (s : State) :
    combLine (combStep c x s) d y = combLine s d y ∧ combFilter (combStep c x s) d = combFilter s d := by
  have hl : (combStep c x s).lines[cbl d] = s.lines[cbl d] := by
    rw [combStep_line, if_neg fun e => h (cbl_injective e)]
  have hf : (combStep c x s).filters[cbf d] = s.filters[cbf d] := by
    rw [combStep_filter, if_neg fun e => h (cbf_injective e)]
  have hd := combDamped_combStep h x s
  exact ⟨by rw [combLine, combLine, hl, hd.2, combStep_combs], by rw [combFilter, combFilter, hf, hd.1]⟩

end Sys2Proof.Machine
end

