-- ==== Sys2Proof/Laws/PerInstr.lean ====
section
/-! SUPPORT. Statements made for every command, one lemma per constructor of Instr: the words of a command and the length
its header announces (spec/30_encoding.md R140, R145). -/

namespace Sys2Proof.Laws.EncodedLength

open Sys2Proof

/-- A command is encoded in as many words as its header announces, one to three, and its header announces its opcode and
that length whatever its operands are (spec/30_encoding.md R140). -/
def Statement (i : Instr) : Prop :=
  (encode i).length = i.length ∧ 1 ≤ i.length ∧ i.length ≤ 3 ∧ opcodeOf (opField i.header) = some i.opcode ∧
  commandLength i.header = i.length

/-- The header clauses hold for every command; what is left is the count of its words. -/
theorem of_words (i : Instr) (h : (encode i).length = i.length) : Statement i :=
  ⟨h, Nat.le_add_right 1 _, by cases i <;> exact Nat.le_of_ble_eq_true rfl,
    by rw [opField_header, opcodeOf_bits], commandLength_header i⟩

theorem endProg : Statement .endProg :=
  of_words _ rfl
theorem nop : Statement .nop :=
  of_words _ rfl
theorem wreg (addr : BitVec 16) (v : Word) : Statement (.wreg addr v) :=
  of_words _ rfl
theorem rreg (addr : BitVec 16) : Statement (.rreg addr) :=
  of_words _ rfl
theorem init : Statement .init :=
  of_words _ rfl
theorem pload (addr : BitVec 16) (p : Word) : Statement (.pload addr p) :=
  of_words _ rfl
theorem frame (l r : Word) : Statement (.frame l r) :=
  of_words _ rfl
theorem mov (xa xb : XReg) : Statement (.mov xa xb) :=
  of_words _ rfl
theorem add (xa xb xc : XReg) : Statement (.add xa xb xc) :=
  of_words _ rfl
theorem sub (xa xb xc : XReg) : Statement (.sub xa xb xc) :=
  of_words _ rfl
theorem mul (xa xb xc : XReg) : Statement (.mul xa xb xc) :=
  of_words _ rfl
theorem ldk (xa : XReg) (k : Word) : Statement (.ldk xa k) :=
  of_words _ rfl
theorem inp (xa xb : XReg) : Statement (.inp xa xb) :=
  of_words _ rfl
theorem out (xb xc : XReg) : Statement (.out xb xc) :=
  of_words _ rfl
theorem dlRd (xa : XReg) (u : BitVec 12) : Statement (.dlRd xa u) :=
  of_words _ rfl
theorem dlRdo (xa xb : XReg) (u : BitVec 12) : Statement (.dlRdo xa xb u) :=
  of_words _ rfl
theorem dlWr (xb : XReg) (u : BitVec 12) : Statement (.dlWr xb u) :=
  of_words _ rfl
theorem dlProc (xa xb : XReg) (u : BitVec 12) : Statement (.dlProc xa xb u) :=
  of_words _ rfl
theorem fltProc (xa xb : XReg) (u : BitVec 12) : Statement (.fltProc xa xb u) :=
  of_words _ rfl
theorem combProc (xa xb : XReg) (u : BitVec 12) : Statement (.combProc xa xb u) :=
  of_words _ rfl
theorem cbProc (xa xb : XReg) (u : BitVec 12) : Statement (.cbProc xa xb u) :=
  of_words _ rfl
theorem apProc (xa xb : XReg) (u : BitVec 12) : Statement (.apProc xa xb u) :=
  of_words _ rfl
theorem apcProc (xa xb : XReg) (u : BitVec 12) : Statement (.apcProc xa xb u) :=
  of_words _ rfl
theorem fdnProc (xa xb xc xe xm : XReg) : Statement (.fdnProc xa xb xc xe xm) :=
  of_words _ rfl

end Sys2Proof.Laws.EncodedLength
end

