-- ==== Sys2Proof/Laws/Step.lean ====
section
/-! SUPPORT. What one pass of a frame program, its whole run and one step can do, said once
(spec/40_sequencer.md R180, R185, R186). -/

namespace Sys2Proof.Machine

open Sys2Proof

/-! ### Outcomes in sequence -/

@[simp] theorem andThen_next (t : State) (f : State → Host.Outcome State Fault Refusal) : andThen (.next t) f = f t := rfl

/-- A sequence answers a next state exactly when both of its parts do. -/
theorem andThen_eq_next {o : Host.Outcome State Fault Refusal} {f : State → Host.Outcome State Fault Refusal}
    {t : State} : andThen o f = .next t ↔ ∃ u, o = .next u ∧ f u = .next t := by
  cases o <;> simp [andThen]

/-! ### The frame program -/

/-- In a frame program every command is executed as exec executes it there. -/
theorem executeInProgram_eq_exec {s : State} {p : Nat} (h : s.pc = some p) (i : Instr) :
    executeInProgram i s = exec i s := by
  cases i
  case frame l r => simp only [executeInProgram, exec, execFrame, h]
  all_goals rfl

/-- All that a pass of the loop which answers a next state can have done, by what the words at the PC decode to. -/
theorem programStep_cases {p : Nat} {s t : State} (h : programStep p s = .next t) :
    (∃ i rest u, decode (programWords p s) = .ok (i, rest) ∧ executeInProgram i s = .next u ∧
      t = advancePc i.length u) ∨
    (∃ w, decode (programWords p s) = .error (.illegalOpcode w) ∧ t = failInProgram .illegalOpcode w s) ∨
    (∃ w, decode (programWords p s) = .error (.reservedField w) ∧
      t = failInProgram (programReservedCause w) w s) ∨
    (decode (programWords p s) = .error .needWords ∧ t = overrun p s) := by
  unfold programStep at h
  split at h
  next i rest hd =>
    obtain ⟨u, hu, ht⟩ := andThen_eq_next.mp h
    exact .inl ⟨i, rest, u, hd, hu, (Host.Outcome.next.inj ht).symm⟩
  next w hd => exact .inr (.inl ⟨w, hd, (Host.Outcome.next.inj h).symm⟩)
  next w hd => exact .inr (.inr (.inl ⟨w, hd, (Host.Outcome.next.inj h).symm⟩))
  next hd => exact .inr (.inr (.inr ⟨hd, (Host.Outcome.next.inj h).symm⟩))

/-- With no PC the run is over. -/
theorem runProgram_none {s : State} (h : s.pc = none) (n : Nat) : runProgram n s = .next s := by
  cases n with
  | zero => rfl
  | succ n => simp only [runProgram, h]

/-- With a PC the run makes one pass and goes on. -/
theorem runProgram_some {s : State} {p : Nat} (h : s.pc = some p) (n : Nat) :
    runProgram (n + 1) s = andThen (programStep p s) fun t => runProgram n (updateIrq t) := by
  simp only [runProgram, h]

/-- What every pass keeps, the run keeps. -/
theorem runProgram_keeps {P : State → Prop}
    (hP : ∀ (s t : State) (p : Nat), P s → s.pc = some p → programStep p s = .next t → P (updateIrq t)) {n : Nat} {s t : State}
    (hs : P s) (h : runProgram n s = .next t) : P t := by
  induction n generalizing s with
  | zero => exact Host.Outcome.next.inj h ▸ hs
  | succ n ih =>
    cases hp : s.pc with
    | none => rw [runProgram_none hp] at h; exact Host.Outcome.next.inj h ▸ hs
    | some p =>
      rw [runProgram_some hp] at h
      obtain ⟨u, hu, ht⟩ := andThen_eq_next.mp h
      exact ih (hP s u p hs hp hu) ht

/-- IRQ follows the flags through a run. -/
theorem runProgram_irq {n : Nat} {s t : State} (hs : s.irq = irqLevel s) (h : runProgram n s = .next t) :
    t.irq = irqLevel t :=
  runProgram_keeps (P := fun u => u.irq = irqLevel u) (fun _ _ _ _ _ _ => rfl) hs h

/-- All that completing a FRAME can have done: run the program, then count the frame and emit its two words. -/
theorem completeFrame_cases {s t : State} (h : completeFrame s = .next t) :
    ∃ u, runProgram frameFuel s = .next u ∧ t = finishFrame u := by
  obtain ⟨u, hu, ht⟩ := andThen_eq_next.mp h
  exact ⟨u, hu, (Host.Outcome.next.inj ht).symm⟩

/-- In the host stream a FRAME is its start and its completion. -/
theorem execFrame_host {s : State} (h : s.pc = none) (l r : Word) :
    exec (.frame l r) s = completeFrame (startFrame l r s) := by
  simp only [exec, execFrame, h]

/-! ### One step -/

/-- All that fetching can answer, by what the host words decode to. -/
theorem fetchCommand_cases (s : State) :
    (∃ i rest, decode s.hostIn = .ok (i, rest) ∧ fetchCommand s = .run i (consume i.length s)) ∨
    (∃ w, decode s.hostIn = .error (.illegalOpcode w) ∧ fetchCommand s = .failed (failWord .illegalOpcode w s)) ∨
    (∃ w, decode s.hostIn = .error (.reservedField w) ∧ fetchCommand s = .failed (failWord .reservedField w s)) ∨
    (decode s.hostIn = .error .needWords ∧ fetchCommand s = .hold) := by
  unfold fetchCommand
  split
  next i rest h => exact .inl ⟨i, rest, h, rfl⟩
  next w h => exact .inr (.inl ⟨w, h, rfl⟩)
  next w h => exact .inr (.inr (.inl ⟨w, h, rfl⟩))
  next h => exact .inr (.inr (.inr ⟨h, rfl⟩))

/-- All that a step which answers a next state can have done: waited, completed a FRAME, failed a header, or run one
command of the host stream. -/
theorem step_cases {s t : State} (h : step s = .next t) :
    (stalled s = true ∧ t = s) ∨
    (stalled s = false ∧ (∃ p, s.pc = some p) ∧ ∃ u, completeFrame s = .next u ∧ t = settle u) ∨
    (stalled s = false ∧ s.pc = none ∧ fetchCommand s = .hold ∧ t = s) ∨
    (stalled s = false ∧ s.pc = none ∧ ∃ u, fetchCommand s = .failed u ∧ t = settle u) ∨
    (stalled s = false ∧ s.pc = none ∧ ∃ i s' u, fetchCommand s = .run i s' ∧ exec i s' = .next u ∧ t = settle u) := by
  unfold step at h
  cases hs : stalled s with
  | true =>
    rw [if_pos hs] at h
    exact .inl ⟨rfl, (Host.Outcome.next.inj h).symm⟩
  | false =>
    rw [if_neg (by rw [hs]; exact Bool.false_ne_true)] at h
    split at h
    next p hp =>
      obtain ⟨u, hu, ht⟩ := andThen_eq_next.mp h
      exact .inr (.inl ⟨rfl, ⟨p, hp⟩, u, hu, (Host.Outcome.next.inj ht).symm⟩)
    next hp =>
      split at h
      next hf => exact .inr (.inr (.inl ⟨rfl, hp, hf, (Host.Outcome.next.inj h).symm⟩))
      next u hf => exact .inr (.inr (.inr (.inl ⟨rfl, hp, u, hf, (Host.Outcome.next.inj h).symm⟩)))
      next i s' hf =>
        obtain ⟨u, hu, ht⟩ := andThen_eq_next.mp h
        exact .inr (.inr (.inr (.inr ⟨rfl, hp, i, s', u, hf, hu, (Host.Outcome.next.inj ht).symm⟩)))

end Sys2Proof.Machine
end

