-- ==== Sys2Proof/Machine/Assembler.lean ====
section
/-! DEFINITION. Assembler syntax: the line of every command, with its operands in the order of the table, and the
pseudo-instructions with their expansions (spec/30_encoding.md R153). An address, an index and a word are written in the
0x form; the decimal forms and register names are other spellings of the same numbers. -/

namespace Sys2Proof.Machine

open Sys2Proof

/-- A hexadecimal digit. -/
def hexDigit (d : Nat) : Char := if d < 10 then Char.ofNat (48 + d) else Char.ofNat (55 + d)

/-- The last k hexadecimal digits of n, most significant first. -/
def hexDigits : Nat → Nat → List Char
  | 0, _ => []
  | k + 1, n => hexDigits k (n / 16) ++ [hexDigit (n % 16)]

/-- A number in the 0x form with k digits. -/
def hexLit (k n : Nat) : String := "0x" ++ String.ofList (hexDigits k n)

/-- A sample register, x0 to x15. -/
def regName (r : XReg) : String :=
  "x" ++ String.ofList (if r.val < 10 then [hexDigit r.val] else ['1', hexDigit (r.val - 10)])

/-- A mnemonic and its operands, separated by commas. -/
def asmLine (mnemonic : String) : List String → String
  | [] => mnemonic
  | o :: os => mnemonic ++ " " ++ o ++ os.foldl (fun acc p => acc ++ ", " ++ p) ""

/-- The line of a command (R153). -/
def assemblyOf : Instr → String
  | .endProg => "end"
  | .nop => "nop"
  | .init => "init"
  | .frame l r => asmLine "frame" [hexLit 8 l.toNat, hexLit 8 r.toNat]
  | .wreg a v => asmLine "wreg" [hexLit 4 a.toNat, hexLit 8 v.toNat]
  | .rreg a => asmLine "rreg" [hexLit 4 a.toNat]
  | .pload a p => asmLine "pload" [hexLit 4 a.toNat, hexLit 8 p.toNat]
  | .mov a b => asmLine "mov" [regName a, regName b]
  | .add a b c => asmLine "add" [regName a, regName b, regName c]
  | .sub a b c => asmLine "sub" [regName a, regName b, regName c]
  | .mul a b c => asmLine "mul" [regName a, regName b, regName c]
  | .ldk a k => asmLine "ldk" [regName a, hexLit 8 k.toNat]
  | .inp a b => asmLine "in" [regName a, regName b]
  | .out b c => asmLine "out" [regName b, regName c]
  | .dlRd a u => asmLine "dl.rd" [regName a, hexLit 3 u.toNat]
  | .dlRdo a b u => asmLine "dl.rdo" [regName a, regName b, hexLit 3 u.toNat]
  | .dlWr b u => asmLine "dl.wr" [regName b, hexLit 3 u.toNat]
  | .dlProc a b u => asmLine "dl.proc" [regName a, regName b, hexLit 3 u.toNat]
  | .fltProc a b u => asmLine "flt.proc" [regName a, regName b, hexLit 3 u.toNat]
  | .combProc a b u => asmLine "comb.proc" [regName a, regName b, hexLit 3 u.toNat]
  | .cbProc a b u => asmLine "cb.proc" [regName a, regName b, hexLit 3 u.toNat]
  | .apProc a b u => asmLine "ap.proc" [regName a, regName b, hexLit 3 u.toNat]
  | .apcProc a b u => asmLine "apc.proc" [regName a, regName b, hexLit 3 u.toNat]
  | .fdnProc a b c e m => asmLine "fdn.proc" [regName a, regName e, regName b, regName c, regName m]

/-- The pseudo-instructions (R153). -/
inductive Pseudo where
  /-- `li xA, imm` -/
  | li (xa : XReg) (k : Word)
  /-- `clr xA` -/
  | clr (xa : XReg)
  /-- `wreg.f addr, decimal`; v is the binary32 pattern of the decimal -/
  | wregF (addr : BitVec 16) (v : F32)
  /-- `halt` -/
  | halt
  deriving DecidableEq, Repr

/-- The expansion of a pseudo-instruction (R153). -/
def expandPseudo : Pseudo → Instr
  | .li xa k => .ldk xa k
  | .clr xa => .ldk xa 0x00000000#32
  | .wregF a v => .wreg a v
  | .halt => .endProg

end Sys2Proof.Machine
end

