-- ==== Sys2Proof/Tests/Slice0.lean ====
section
/-! SUPPORT. Tests of the model, each about one word or one command, and the witnesses: for every statement of
Sys2Proof/Certificates/Slice0/Obligations.lean that has hypotheses, a concrete state and operands that meet them.
Expected results come from the examples of the rules of spec/ that each comment names. -/

namespace Sys2Proof.Tests

open Sys2Proof Sys2Proof.Machine Sys2Proof.Safety

set_option Elab.async false

/-! ### Small states -/

/-- The line of the example of R234: DL_CAP = 5, DL_LEN = 3.0, and 1.0, 2.0, 3.0, 4.0 written since INIT. -/
def line5 : Line :=
  { maxMs := F32.half
    lenMs := F32.zero
    cap := 5
    len := 0x40400000#32
    wptr := 4
    buf := [(0, F32.one), (1, F32.two), (2, 0x40400000#32), (3, 0x40800000#32)] }

/-- A filter in BYPASS with its state cleared. -/
def bypass : Filter := ⟨.bypass, F32.c1000, F32.one, ⟨F32.one, F32.zero, F32.zero, F32.zero, F32.zero⟩, F32.zero, F32.zero⟩

/-- The RAW filter of the example of R270, y[n] = 0.5*x[n] + 0.5*y[n-1]. -/
def rawHalf : Filter :=
  ⟨.raw, F32.c1000, F32.one, ⟨F32.half, F32.zero, F32.zero, 0xBF000000#32, F32.zero⟩, F32.zero, F32.zero⟩

/-- A machine in the host context whose 44 lines are `line5`: x1 = 1.5, x2 = 2.25, x5 = 1.0. -/
def small : State :=
  { x := #v[0, 0x3FC00000, 0x40100000, 0x80000000, 0x3E800000, 0x3F800000, 0xBF000000, 0, 0, 0, 0, 0, 0, 0, 0, 0]
    finL := F32.half
    finR := 0xBF000000#32
    foutL := F32.zero
    foutR := F32.zero
    pc := none
    pmem := Vector.replicate 256 0x01000000#32
    err := false
    clamp := false
    cause := none
    errWord := 0#32
    errPc := 0#32
    errIe := true
    clampIe := false
    fs := F32.c8000
    frameCnt := 0xFFFFFFFF#32
    lines := Vector.replicate 44 line5
    filters := (Vector.replicate 32 bypass).set 0 rawHalf
    combs := Vector.replicate 16 ⟨F32.half, F32.one⟩
    banks := Vector.replicate 2 ⟨F32.one, .alternate, .bypass, F32.c1000⟩
    chains := Vector.replicate 4 ⟨F32.half, .canonical⟩
    fdn :=
      { room := F32.one, roomSel := 0#6, decay := F32.one, spread := F32.zero, mixMode := .first
        modDepth := F32.zero, dampKind := .bypass, dampFc := F32.c1000, mods := F32.zero
        g := Vector.replicate 8 F32.half }
    hostIn := []
    rsp := []
    irq := false }

/-- `small` running its program at p. -/
def running (p : Nat) : State := { small with pc := some p }

/-- `small` running, at p, a program whose words are all w. -/
def runningOn (w : Word) (p : Nat) : State := { running p with pmem := Vector.replicate 256 w }

/-- `small` with words that have arrived from the host. -/
def receiving (ws : List Word) : State := { small with hostIn := ws }

/-- A question about the next state; false at any other outcome. -/
def after (o : Host.Outcome State Fault Refusal) (q : State → Bool) : Bool :=
  match o with
  | .next t => q t
  | .fault _ => false
  | .refused _ => false

/-- An outcome of which the trivial question is answered is a next state. -/
theorem next_of_after {o : Host.Outcome State Fault Refusal} (h : after o (fun _ => true) = true) :
    ∃ t, o = .next t := by
  cases o with
  | next t => exact ⟨t, rfl⟩
  | fault r => cases h
  | refused r => cases h

/-! ### Decoding: one word of every command, written out from the fields of R141 and the opcodes of R146 -/

/-- R187: 0x00000000. -/
theorem test_decode_end : decode [0x00000000#32] = .ok (.endProg, []) := by decide
/-- R188: 0x01000000. -/
theorem test_decode_nop : decode [0x01000000#32] = .ok (.nop, []) := by decide
/-- R181: FLT_FC[3] = 0x2103, 500.0. -/
theorem test_decode_wreg : decode [0x02002103#32, 0x43FA0000#32] = .ok (.wreg 0x2103#16 0x43FA0000#32, []) := by decide
/-- R182: address 0xFFFF, all ADDR bits set. -/
theorem test_decode_rreg : decode [0x0300FFFF#32] = .ok (.rreg 0xFFFF#16, []) := by decide
/-- R183: 0x04000000, and the word after it is left. -/
theorem test_decode_init : decode [0x04000000#32, 0x01000000#32] = .ok (.init, [0x01000000#32]) := by decide
/-- R184: index 0, the word of `in x0, x1`. -/
theorem test_decode_pload : decode [0x05000000#32, 0x15010000#32] = .ok (.pload 0#16 0x15010000#32, []) := by decide
/-- R185: 0.5 left, -0.5 right. -/
theorem test_decode_frame :
    decode [0x06000000#32, 0x3F000000#32, 0xBF000000#32] = .ok (.frame 0x3F000000#32 0xBF000000#32, []) := by decide
/-- R189: `mov x5, x2`. -/
theorem test_decode_mov : decode [0x10520000#32] = .ok (.mov 5 2, []) := by decide
/-- R190: `add x3, x1, x2`. -/
theorem test_decode_add : decode [0x11312000#32] = .ok (.add 3 1 2, []) := by decide
/-- R191: `sub x3, x1, x2`. -/
theorem test_decode_sub : decode [0x12312000#32] = .ok (.sub 3 1 2, []) := by decide
/-- R192: `mul x3, x1, x2`. -/
theorem test_decode_mul : decode [0x13312000#32] = .ok (.mul 3 1 2, []) := by decide
/-- R193: `ldk x7, 0.25`. -/
theorem test_decode_ldk : decode [0x14700000#32, 0x3E800000#32] = .ok (.ldk 7 0x3E800000#32, []) := by decide
/-- R194: `in x0, x1`. -/
theorem test_decode_in : decode [0x15010000#32] = .ok (.inp 0 1, []) := by decide
/-- R195: `out x4, x5`. -/
theorem test_decode_out : decode [0x16045000#32] = .ok (.out 4 5, []) := by decide
/-- R234: `dl.rd x2, 0`; XA = 2, U = 0. -/
theorem test_decode_dlRd : decode [0x20200000#32] = .ok (.dlRd 2 0#12, []) := by decide
/-- R235: `dl.rdo x2, x1, 0`; here with U = 43. -/
theorem test_decode_dlRdo : decode [0x2121002B#32] = .ok (.dlRdo 2 1 43#12, []) := by decide
/-- R236: `dl.wr x3, 0`. -/
theorem test_decode_dlWr : decode [0x22030000#32] = .ok (.dlWr 3 0#12, []) := by decide
/-- R237: `dl.proc x2, x0, 0`. -/
theorem test_decode_dlProc : decode [0x23200000#32] = .ok (.dlProc 2 0 0#12, []) := by decide
/-- R272: `flt.proc x1, x0, 0`; here with U = 0xFFF, every bit of the field. -/
theorem test_decode_fltProc : decode [0x30100FFF#32] = .ok (.fltProc 1 0 0xFFF#12, []) := by decide
/-- R305: `comb.proc x1, x0, 0`. -/
theorem test_decode_combProc : decode [0x40100000#32] = .ok (.combProc 1 0 0#12, []) := by decide
/-- R306: `cb.proc x1, x0, 0`; here bank 1. -/
theorem test_decode_cbProc : decode [0x41100001#32] = .ok (.cbProc 1 0 1#12, []) := by decide
/-- R334: `ap.proc x1, x0, 0`. -/
theorem test_decode_apProc : decode [0x50100000#32] = .ok (.apProc 1 0 0#12, []) := by decide
/-- R335: `apc.proc x1, x0, 0`; here chain 3, x15 and x14. -/
theorem test_decode_apcProc : decode [0x51FE0003#32] = .ok (.apcProc 15 14 3#12, []) := by decide
/-- R153: `fdn.proc x4, x5, x0, x1, x2`: OP 0x60, XA 4, XB 0, XC 1, XE 5, XM 2. -/
theorem test_decode_fdnProc : decode [0x60401052#32] = .ok (.fdnProc 4 0 1 5 2, []) := by decide

/-- R149, R147, R151: an unassigned opcode, a reserved bit, a missing data word. -/
theorem test_decode_rejects :
    decode [0x07000000#32] = .error (.illegalOpcode 0x07000000#32) ∧
    decode [0x15001000#32] = .error (.reservedField 0x15001000#32) ∧
    decode [0x02010007#32] = .error .needWords := by decide

/-- The host's reader of a table row: the WREG row with address 0x0102 and the value above it. -/
theorem test_decodeTableWord :
    decodeTableWord 64 0x3F80000002000102 = some (.wreg 0x0102#16 0x3F800000#32) ∧
    decodeTableWord 32 0x14700000 = some (.ldk 7 0#32) := by decide +kernel

/-- R104: least significant byte first. -/
theorem test_wordOfBytes : wordOfBytes 0x43#8 0x58#8 0x4F#8 0x46#8 = 0x464F5843#32 := by decide

/-- R153: the operand order of `fdn.proc`, and the expansion of `clr`. -/
theorem test_assembly :
    assemblyOf (.fdnProc 4 0 1 5 2) = "fdn.proc x4, x5, x0, x1, x2" ∧ assemblyOf (.dlWr 15 43#12) = "dl.wr x15, 0x02B" ∧
    assemblyOf (expandPseudo (.clr 7)) = "ldk x7, 0x00000000" := by decide +kernel

/-! ### Well-formedness: an ill-formed term for each check (spec/60_exceptions.md R402) -/

theorem test_wf_unit_line : (Instr.dlRd 0 43#12).WellFormed ∧ ¬(Instr.dlRd 0 44#12).WellFormed ∧
    ¬(Instr.dlRdo 0 0 44#12).WellFormed ∧ ¬(Instr.dlWr 0 44#12).WellFormed ∧
    ¬(Instr.dlProc 0 0 44#12).WellFormed := by decide
theorem test_wf_unit_filter : (Instr.fltProc 0 0 31#12).WellFormed ∧ ¬(Instr.fltProc 0 0 32#12).WellFormed := by decide
theorem test_wf_unit_comb : (Instr.combProc 0 0 15#12).WellFormed ∧ ¬(Instr.combProc 0 0 16#12).WellFormed ∧
    (Instr.cbProc 0 0 1#12).WellFormed ∧ ¬(Instr.cbProc 0 0 2#12).WellFormed := by decide
theorem test_wf_unit_allpass : (Instr.apProc 0 0 15#12).WellFormed ∧ ¬(Instr.apProc 0 0 16#12).WellFormed ∧
    (Instr.apcProc 0 0 3#12).WellFormed ∧ ¬(Instr.apcProc 0 0 4#12).WellFormed := by decide
theorem test_wf_unit_pload : (Instr.pload 255#16 0#32).WellFormed ∧ ¬(Instr.pload 256#16 0#32).WellFormed := by decide
theorem test_wf_reg_addr : ¬(Instr.wreg 0x0010#16 0#32).WellFormed ∧ ¬(Instr.rreg 0x0110#16).WellFormed ∧
    ¬(Instr.rreg 0x5108#16).WellFormed ∧ (Instr.rreg 0x5107#16).WellFormed := by decide
theorem test_wf_reg_ro : ¬(Instr.wreg 0x0000#16 0#32).WellFormed ∧ (Instr.wreg 0x0002#16 0#32).WellFormed := by decide
theorem test_wf_bad_value : (Instr.wreg 0x0006#16 3#32).WellFormed ∧ ¬(Instr.wreg 0x0006#16 4#32).WellFormed ∧
    ¬(Instr.wreg 0x2000#16 8#32).WellFormed ∧ ¬(Instr.wreg 0x3300#16 2#32).WellFormed ∧
    ¬(Instr.wreg 0x5001#16 1#32).WellFormed ∧ ¬(Instr.wreg 0x5004#16 3#32).WellFormed := by decide

/-! ### Commands: the examples of their rules -/

/-- R185: the example, [`in x0, x1`, `out x1, x0`, `end`] swaps the channels; FRAMECNT counts modulo 2^32. -/
theorem test_frame :
    after (exec (.frame 0x3F000000#32 0xBF000000#32)
        { small with pmem := ((Vector.replicate 256 0#32).set 0 0x15010000#32).set 1 0x16010000#32 }) (fun t =>
      t.rsp == [0xBF000000#32, 0x3F000000#32] && t.frameCnt == 0#32 && t.pc == none && !t.err) = true := by
  decide +kernel
/-- R186: the example, 256 NOPs run and then PROG_OVERRUN with error word 0 and ERRPC 256; S acts on the input (R185). -/
theorem test_frame_overrun :
    after (exec (.frame 0x7FC00000#32 0x7F800000#32) small) (fun t =>
      t.finL == 0#32 && t.finR == 0x7F7FFFFF#32 && t.cause == some .progOverrun && t.errWord == 0#32 &&
      t.errPc == 256#32 && t.rsp == [0#32, 0#32] && !t.clamp && t.irq) = true := by
  decide +kernel
/-- R187: END ends the run of a program, and alone counts no frame. -/
theorem test_end :
    after (exec .endProg (running 7)) (fun t => t.frameCnt == 0xFFFFFFFF#32 && t.pc == none && t.rsp == []) = true := by
  decide +kernel
/-- R182: `rreg ID` emits 0x464F5843. -/
theorem test_rreg : after (exec (.rreg 0x0000#16) small) (fun t => t.rsp == [0x464F5843#32]) = true := by decide +kernel
/-- R182, R403: a read of an unmapped address emits 0 and records REG_ADDR. -/
theorem test_rreg_unmapped :
    after (exec (.rreg 0x0010#16) small) (fun t =>
      t.rsp == [0#32] && t.cause == some .regAddr && t.errPc == 0xFFFFFFFF#32) = true := by decide +kernel
/-- R41: WREG of FS clamps 7999.0 to 8000.0 and sets CLAMP. -/
theorem test_wreg_fs :
    after (exec (.wreg 0x0007#16 0x45F9F800#32) small) (fun t => t.fs == F32.c8000 && t.clamp) = true := by
  decide +kernel
/-- R50: DL_LENMS[0] = 0.375 at 8000 Hz is 3.0 samples. -/
theorem test_wreg_lenMs :
    after (exec (.wreg 0x1100#16 0x3EC00000#32) small) (fun t => t.lines[0].len == 0x40400000#32 && !t.clamp) = true := by
  decide +kernel
/-- R183: DL_MAXMS = 0.5 at 8000 Hz gives a capacity of 5, and INIT empties the buffer. -/
theorem test_init :
    after (exec .init small) (fun t => t.lines[0].cap == 5 && t.lines[0].wptr == 0 && t.lines[0].buf == []) = true := by
  decide +kernel
/-- R184: PLOAD stores its word unchecked. -/
theorem test_pload :
    after (exec (.pload 255#16 0x15001000#32) small) (fun t => t.pmem[255] == 0x15001000#32) = true := by
  decide +kernel
/-- R189: the copy keeps the sign of zero. -/
theorem test_mov : after (exec (.mov 5 3) small) (fun t => t.x[5] == 0x80000000#32) = true := by decide +kernel
/-- R190: 1.5 + 2.25 = 3.75. -/
theorem test_add : after (exec (.add 3 1 2) small) (fun t => t.x[3] == 0x40700000#32) = true := by decide +kernel
/-- R191: 1.5 - 2.25 = -0.75. -/
theorem test_sub : after (exec (.sub 3 1 2) small) (fun t => t.x[3] == 0xBF400000#32) = true := by decide +kernel
/-- R192: 1.5 * 2.25 = 3.375. -/
theorem test_mul : after (exec (.mul 3 1 2) small) (fun t => t.x[3] == 0x40580000#32) = true := by decide +kernel
/-- R193: a NaN pattern loads +0.0, without a flag. -/
theorem test_ldk :
    after (exec (.ldk 5 0x7FC00000#32) small) (fun t => t.x[5] == 0#32 && !t.clamp && !t.err) = true := by
  decide +kernel
/-- R194: with one destination register FIN_R wins. -/
theorem test_in : after (exec (.inp 4 4) small) (fun t => t.x[4] == 0xBF000000#32) = true := by decide +kernel
/-- R195. -/
theorem test_out :
    after (exec (.out 4 5) small) (fun t => t.foutL == 0x3E800000#32 && t.foutR == 0x3F800000#32) = true := by
  decide +kernel
/-- R234: the tap at 3.0 is 2.0. -/
theorem test_dlRd : after (exec (.dlRd 2 0#12) small) (fun t => t.x[2] == 0x40000000#32) = true := by decide +kernel
/-- R235: the tap at 3.0 + (-0.5) is 2.5. -/
theorem test_dlRdo : after (exec (.dlRdo 2 6 0#12) small) (fun t => t.x[2] == 0x40200000#32) = true := by decide +kernel
/-- R236: the word at index 4 is stored and the cursor wraps to 0. -/
theorem test_dlWr :
    after (exec (.dlWr 5 43#12) small) (fun t =>
      memRead t.lines[43].buf 4 == 0x3F800000#32 && t.lines[43].wptr == 0) = true := by decide +kernel
/-- R237: the tap is read before the write, and the source before the destination is written. -/
theorem test_dlProc :
    after (exec (.dlProc 5 5 0#12) small) (fun t =>
      t.x[5] == 0x40000000#32 && memRead t.lines[0].buf 4 == 0x3F800000#32) = true := by decide +kernel
/-- R270: the impulse into the RAW filter gives 0.5, and leaves 0.25 for the next step. -/
theorem test_fltProc :
    after (exec (.fltProc 1 5 0#12) small) (fun t => t.x[1] == 0x3F000000#32 && t.filters[0].s1 == 0x3E800000#32) = true := by
  decide +kernel
/-- R304: the output is the tap 2.0, the line gets 1.0 + 2.0*0.5 = 2.0. -/
theorem test_combProc :
    after (exec (.combProc 1 5 15#12) small) (fun t =>
      t.x[1] == 0x40000000#32 && memRead t.lines[19].buf 4 == 0x40000000#32) = true := by decide +kernel
/-- R306: the eight taps 2.0 sum to 16.0 without scaling. -/
theorem test_cbProc :
    after (exec (.cbProc 1 5 1#12) small) (fun t => t.x[1] == 0x41800000#32 && t.lines[12].wptr == 0 && t.lines[11].wptr == 4) = true := by
  decide +kernel
/-- R331: y = 2.0 - 0.5*1.0 = 1.5, the line gets 1.0 + 0.5*1.5 = 1.75. -/
theorem test_apProc :
    after (exec (.apProc 1 5 15#12) small) (fun t =>
      t.x[1] == 0x3FC00000#32 && memRead t.lines[35].buf 4 == 0x3FE00000#32) = true := by decide +kernel
/-- R335: 1.0 goes to 1.5, 1.25, 1.375, 1.3125 through the four stages. -/
theorem test_apcProc : after (exec (.apcProc 1 5 3#12) small) (fun t => t.x[1] == 0x3FA80000#32) = true := by
  decide +kernel
/-- R366: r[i] = 2.0, u[i] = 1.0, h = 8.0*0.25 = 2.0, v[i] = -1.0; line 0 gets -1.0 + 1.0 and line 1 gets -1.0 + 1.5. -/
theorem test_fdnProc :
    after (exec (.fdnProc 4 5 1 6 0) small) (fun t =>
      t.x[4] == 0x40000000#32 && t.x[6] == 0x40000000#32 && memRead t.lines[36].buf 4 == 0#32 &&
      memRead t.lines[37].buf 4 == 0x3F000000#32) = true := by decide +kernel

/-- R444: right after reset a step waits, and with a command placed it runs: `rreg VERSION` emits 7, and FRAME, at once and
whole, emits two words +0.0 and counts. -/
theorem test_step_after_reset :
    after (step State.reset) (fun t => t.rsp == []) = true ∧
    after (step (State.reset.withFetchWord 32 0x03000001)) (fun t => t.rsp == [7#32] && t.hostIn == []) = true ∧
    after (step (State.reset.withFetchWord 96 0x06000000)) (fun t =>
      t.rsp == [0#32, 0#32] && t.frameCnt == 1#32 && t.pc == none && !t.err) = true := by
  decide +kernel

/-- The buffers of the reset state are in the one form. -/
theorem test_reset_memory : ∀ l : Fin 44, memWf State.reset.lines[l].buf = true := by decide +kernel

/-! ### Witnesses: the hypotheses of the statements can be met -/

theorem witness_EncodeOfDecode : decode [0x10520000#32, 7#32] = .ok (.mov 5 2, [7#32]) := by decide

/-- Both ends of the ranges of unassigned opcodes, and each way to reject. -/
theorem witness_DecoderRejectsByName :
    opcodeOf 0x07#8 = none ∧ opcodeOf 0x0F#8 = none ∧ opcodeOf 0x17#8 = none ∧ opcodeOf 0x61#8 = none ∧
    opcodeOf 0xFF#8 = none ∧ opcodeOf (opField 0xFF000000#32) = none ∧
    opcodeOf (opField 0x02000000#32) = some .wreg ∧ ([] : List Word).length < Opcode.wreg.dataWords ∧
    Opcode.wreg.dataWords ≤ [0#32].length ∧ 0x02010000#32 &&& Opcode.wreg.mask ≠ Opcode.wreg.pattern := by decide

theorem witness_RegisterMapIsOneToOne :
    regOf 0x0000#16 = some .id ∧ regOf 0x02FF#16 = some (.pmem 255) ∧ regOf 0x5107#16 = some (.fdnG 7) ∧
    regAccess .status = .w1c ∧ regAccess (.fltA2 31) = .rw ∧ regAccess (.fltS1 31) = .ro := by decide

theorem witness_StepRunsHostCommand :
    (receiving [0x10520000#32, 7#32]).pc = none ∧ stalled (receiving [0x10520000#32, 7#32]) = false ∧
    decode (receiving [0x10520000#32, 7#32]).hostIn = .ok (.mov 5 2, [7#32]) := by decide +kernel

theorem witness_RunProgramRunsTheDecodedCommand :
    small.pc = none ∧ (running 255).pc = some 255 ∧
    decode ((running 255).pmem.toList.drop 255) = .ok (.nop, []) := by decide +kernel

/-- A queue one word past its depth, and an incomplete FRAME. -/
theorem witness_WaitingStepChangesNothing :
    stalled { small with rsp := List.replicate (Config.rspDepth + 1) 0#32 } = true ∧
    (receiving []).pc = none ∧ (receiving []).hostIn = [] ∧
    (receiving [0x06000000#32, 1#32]).hostIn = 0x06000000#32 :: [1#32] ∧
    [1#32].length + 1 < commandLength 0x06000000#32 := by
  refine ⟨?_, rfl, rfl, rfl, by decide⟩
  rw [stalled, heldWords_eq_drop]
  simp

/-- An illegal opcode and the two kinds of reserved bits that emit, in both contexts. -/
theorem witness_BadHeaderIsRecordedAndSkipped :
    (receiving [0x07000000#32]).pc = none ∧ stalled (receiving [0x07000000#32]) = false ∧
    opcodeOf (opField 0x07000000#32) = none ∧
    opcodeOf (opField 0x03010000#32) = some .rreg ∧ 0x03010000#32 &&& Opcode.rreg.mask ≠ Opcode.rreg.pattern ∧
    opcodeOf (opField 0x06000001#32) = some .frame ∧ 0x06000001#32 &&& Opcode.frame.mask ≠ Opcode.frame.pattern ∧
    Opcode.frame.dataWords ≤ [0#32, 0#32].length ∧
    (runningOn 0x01000001#32 255).pc = some 255 ∧
    (runningOn 0x01000001#32 255).pmem.toList.drop 255 = [0x01000001#32] ∧
    (runningOn 0x61000000#32 0).pmem.toList.drop 0 = 0x61000000#32 :: (runningOn 0x61000000#32 0).pmem.toList.drop 1 ∧
    opcodeOf (opField 0x61000000#32) = none ∧ Opcode.nop.dataWords ≤ ([] : List Word).length ∧
    opcodeOf (opField 0x01000001#32) = some .nop ∧ 0x01000001#32 &&& Opcode.nop.mask ≠ Opcode.nop.pattern := by
  decide +kernel

/-- The PC at PMEM_DEPTH, and an LDK header in the last word. -/
theorem witness_ProgramOverrunEndsTheFrame :
    (running 256).pc = some 256 ∧ (runningOn 0x14000000#32 255).pc = some 255 ∧
    256 < 255 + commandLength (runningOn 0x14000000#32 255).pmem[255] := by
  decide +kernel

theorem witness_FrameProgramEnds :
    257 ≤ 257 ∧ (receiving [0x06000000#32, 1#32, 2#32, 3#32]).pc = none ∧
    stalled (receiving [0x06000000#32, 1#32, 2#32, 3#32]) = false ∧
    (receiving [0x06000000#32, 1#32, 2#32, 3#32]).hostIn = 0x06000000#32 :: 1#32 :: 2#32 :: [3#32] := by
  decide +kernel

/-- A FRAME whose words have just arrived, and a header alone. -/
theorem witness_HostWordsDoNotDisturbAFrame :
    (receiving [0x06000000#32, 1#32, 2#32]).pc = none ∧ stalled (receiving [0x06000000#32, 1#32, 2#32]) = false ∧
    (receiving [0x06000000#32, 1#32, 2#32]).hostIn = 0x06000000#32 :: [1#32, 2#32] ∧
    commandLength 0x06000000#32 ≤ [1#32, 2#32].length + 1 ∧ commandLength 0x07000000#32 ≤ ([] : List Word).length + 1 := by
  decide +kernel

/-- Both contexts, END, NOP and a reserved bit at the last program word, and the least and the greatest reserved bit. -/
theorem witness_EndAndNopCommands :
    small.pc = none ∧ (running 255).pc = some 255 ∧
    (runningOn 0x00000000#32 255).pmem.toList.drop 255 = 0x00000000#32 :: [] ∧
    (running 255).pmem.toList.drop 255 = 0x01000000#32 :: [] ∧
    (runningOn 0x00000001#32 255).pmem.toList.drop 255 = 0x00000001#32 :: [] ∧
    (0x00000001#32).extractLsb' 0 24 ≠ 0#24 ∧ opField 0x00000001#32 = 0x00#8 ∧
    (0x01800000#32).extractLsb' 0 24 ≠ 0#24 ∧ opField 0x01800000#32 = 0x01#8 := by decide +kernel

theorem witness_MovAndLdkCommands :
    opField 0x10000001#32 = 0x10#8 ∧ (0x10000001#32).extractLsb' 0 16 ≠ 0#16 ∧
    opField 0x14080000#32 = 0x14#8 ∧ (0x14080000#32).extractLsb' 0 20 ≠ 0#20 := by decide

theorem witness_AddSubMulCommands :
    opField 0x11000001#32 = 0x11#8 ∧ opField 0x12000800#32 = 0x12#8 ∧ opField 0x13000001#32 = 0x13#8 ∧
    (0x11000001#32).extractLsb' 0 12 ≠ 0#12 ∧ (0x12000800#32).extractLsb' 0 12 ≠ 0#12 ∧
    (0x13000001#32).extractLsb' 0 12 ≠ 0#12 := by decide

theorem witness_InAndOutCommands :
    opField 0x15001000#32 = 0x15#8 ∧ (0x15001000#32).extractLsb' 0 16 ≠ 0#16 ∧
    opField 0x16100000#32 = 0x16#8 ∧ (0x16100000#32).extractLsb' 20 4 ≠ 0#4 ∧
    (0x16000001#32).extractLsb' 0 12 ≠ 0#12 := by decide

/-- NaN, the value just below 1.0, a value past the top, and both ends of the range. -/
theorem witness_ClampDRule :
    F32.isNaN F32.qNaN = true ∧ F32.lt 0x3F7FFFFF#32 F32.one = true ∧
    (F32.isNaN 0x40800001#32 = false ∧ F32.lt 0x40800001#32 F32.one = false ∧
      F32.lt (F32.ofNat (line5.cap - 1)) 0x40800001#32 = true) ∧
    InRange F32.one (F32.ofNat (line5.cap - 1)) F32.one ∧
    InRange F32.one (F32.ofNat (line5.cap - 1)) 0x40800000#32 := by decide +kernel

/-- The least and the greatest capacity, an integer and a fractional delay, and the last exact integer. -/
theorem witness_TapReadsBetweenNeighbours :
    (2 ^ 24 : Nat) ≤ 2 ^ 24 ∧
    (2 ≤ ({ line5 with cap := 2 } : Line).cap ∧ ({ line5 with cap := 2 } : Line).cap ≤ 32768) ∧
    (2 ≤ ({ line5 with cap := 32768 } : Line).cap ∧ ({ line5 with cap := 32768 } : Line).cap ≤ 32768) ∧
    F32.val (F32.sub (clampD line5 0x40400000#32) (F32.ofNat (F32.floorNat (clampD line5 0x40400000#32)))) = 0 ∧
    F32.val (F32.sub (clampD line5 0x40200000#32) (F32.ofNat (F32.floorNat (clampD line5 0x40200000#32)))) ≠ 0 := by
  decide +kernel

theorem witness_RecentWritesAreRead :
    (line5.wptr < line5.cap ∧ memWf line5.buf = true ∧ 1 ≤ 1 ∧ 4 ≤ line5.cap - 1) ∧
    small.pc = none ∧ ∃ t, exec .init small = .next t :=
  ⟨by decide, rfl, next_of_after (by decide +kernel)⟩

/-- The last unit in range and the first out of range, and the reserved bits. -/
theorem witness_DlRdAndDlRdoCommands :
    (43#12).toNat < 44 ∧ 44 ≤ (44#12).toNat ∧
    opField 0x20001000#32 = 0x20#8 ∧ (0x20001000#32).extractLsb' 12 8 ≠ 0#8 ∧
    opField 0x21008000#32 = 0x21#8 ∧ (0x21008000#32).extractLsb' 12 4 ≠ 0#4 := by decide

theorem witness_DlWrCommand :
    (43#12).toNat < 44 ∧ 44 ≤ (44#12).toNat ∧ memWf line5.buf = true ∧
    opField 0x22100000#32 = 0x22#8 ∧ (0x22100000#32).extractLsb' 20 4 ≠ 0#4 ∧
    opField 0x22001000#32 = 0x22#8 ∧ (0x22001000#32).extractLsb' 12 4 ≠ 0#4 := by decide

theorem witness_DlProcCommand :
    (43#12).toNat < 44 ∧ 44 ≤ (44#12).toNat ∧ memWf line5.buf = true ∧
    opField 0x23001000#32 = 0x23#8 ∧ (0x23001000#32).extractLsb' 12 4 ≠ 0#4 := by decide

theorem witness_FltProcCommand :
    (31#12).toNat < 32 ∧ 32 ≤ (32#12).toNat ∧
    opField 0x30001000#32 = 0x30#8 ∧ (0x30001000#32).extractLsb' 12 4 ≠ 0#4 := by decide

/-- A filter of each kind. -/
theorem witness_FilterCoefficientRules :
    bypass.kind = .bypass ∧ rawHalf.kind = .raw ∧ ({ bypass with kind := .lp1 } : Filter).kind = .lp1 ∧
    ({ bypass with kind := .hp1 } : Filter).kind = .hp1 ∧ ({ bypass with kind := .lp2 } : Filter).kind = .lp2 ∧
    ({ bypass with kind := .hp2 } : Filter).kind = .hp2 ∧ ({ bypass with kind := .shelf1 } : Filter).kind = .shelf1 ∧
    ({ bypass with kind := .vicanek1 } : Filter).kind = .vicanek1 := by decide

theorem witness_BypassFilterIsTransparent :
    bypass.co = ⟨F32.one, F32.zero, F32.zero, F32.zero, F32.zero⟩ ∧ bypass.s1 = F32.zero ∧ bypass.s2 = F32.zero ∧
    F32.isFinite 0x7F7FFFFF#32 = true ∧ (0x7F7FFFFF#32 : F32) ≠ 0x80000000#32 ∧
    F32.isFinite 0x80000000#32 = true := by decide

/-- The comb clause of BypassFilterIsTransparent: the last unit, whose tap is 2.0, and an input +0.0. -/
theorem witness_BypassFilterIsTransparent_comb :
    (15#12).toNat < 16 ∧ small.filters[cbf 15] = bypass ∧
    dlRead small.lines[cbl 15] small.lines[cbl 15].len = 0x40000000#32 ∧ F32.isFinite 0x40000000#32 = true ∧
    (0x40000000#32 : F32) ≠ 0x80000000#32 ∧ small.x[0] = F32.zero := by decide +kernel

theorem witness_CombProcCommand :
    (15#12).toNat < 16 ∧ 16 ≤ (16#12).toNat ∧ memWf line5.buf = true ∧
    opField 0x40001000#32 = 0x40#8 ∧ (0x40001000#32).extractLsb' 12 4 ≠ 0#4 := by decide

theorem witness_CbProcCommand :
    (1#12).toNat < 2 ∧ 2 ≤ (2#12).toNat ∧ memWf line5.buf = true ∧
    opField 0x41001000#32 = 0x41#8 ∧ (0x41001000#32).extractLsb' 12 4 ≠ 0#4 ∧
    (∀ k : Fin 8, (0 : Fin 44) ≠ cbl (combOf 1 k)) ∧ ∀ k : Fin 8, (0 : Fin 32) ≠ cbf (combOf 1 k) := by decide

/-- Both ends of the units, and a chain in each mode. -/
theorem witness_ApProcCommand :
    (15#12).toNat < 16 ∧ 16 ≤ (16#12).toNat ∧ memWf line5.buf = true ∧
    small.chains[3].mode = .canonical ∧
    ({ small with chains := Vector.replicate 4 ⟨F32.half, .literal⟩ } : State).chains[3].mode = .literal ∧
    opField 0x50001000#32 = 0x50#8 ∧ (0x50001000#32).extractLsb' 12 4 ≠ 0#4 := by decide +kernel

theorem witness_ApcProcCommand :
    (3#12).toNat < 4 ∧ 4 ≤ (4#12).toNat ∧ memWf line5.buf = true ∧
    opField 0x51001000#32 = 0x51#8 ∧ (0x51001000#32).extractLsb' 12 4 ≠ 0#4 := by decide

theorem witness_FdnProcCommand :
    memWf line5.buf = true ∧ opField 0x60000800#32 = 0x60#8 ∧ (0x60000800#32).extractLsb' 8 4 ≠ 0#4 ∧
    (∀ i : Fin 8, (35 : Fin 44) ≠ fdl i) ∧ ∀ i : Fin 8, (23 : Fin 32) ≠ fdf i := by decide

/-- Both zeros. -/
theorem witness_ZeroSpreadTapsAreEqual :
    F32.isZero small.fdn.spread = true ∧
    F32.isZero ({ small with fdn := { small.fdn with spread := 0x80000000#32 } } : State).fdn.spread = true := by
  decide +kernel

/-- Each check of WREG, at the boundary of its set. -/
theorem witness_WregChecks :
    small.pc = none ∧ regOf 0x0010#16 = none ∧ (regOf 0x000F#16 = some .foutR ∧ regAccess .foutR = .ro) ∧
    (regOf 0x0006#16 = some .ctrl ∧ regAccess .ctrl ≠ .ro ∧ regLegal .ctrl 4#32 = false ∧
      regLegal .ctrl 3#32 = true) ∧
    opField 0x02010000#32 = 0x02#8 ∧ (0x02010000#32).extractLsb' 16 8 ≠ 0#8 := by decide +kernel

theorem witness_RregCommand :
    small.pc = none ∧ regOf 0x000F#16 = some .foutR ∧ regOf 0x0010#16 = none ∧
    small.cause = none ∧ (∀ k, ({ small with cause := some k } : State).cause = some k) ∧
    opField 0x03800000#32 = 0x03#8 ∧ (0x03800000#32).extractLsb' 16 8 ≠ 0#8 :=
  ⟨rfl, by decide, by decide, rfl, fun _ => rfl, by decide, by decide⟩

/-- The host context, and a capacity computed from a finite, non-negative product; +0.0 is its least value. -/
theorem witness_InitCommand :
    small.pc = none ∧
    (F32.isFinite (F32.div (F32.mul F32.c500 F32.c44100) F32.c1000) = true ∧
      F32.isNeg (F32.div (F32.mul F32.c500 F32.c44100) F32.c1000) = false) ∧
    (F32.isFinite (F32.div (F32.mul F32.zero F32.c8000) F32.c1000) = true ∧
      F32.isNeg (F32.div (F32.mul F32.zero F32.c8000) F32.c1000) = false) ∧
    opField 0x04000001#32 = 0x04#8 ∧ (0x04000001#32).extractLsb' 0 24 ≠ 0#24 := by decide +kernel

theorem witness_PloadAndFrameCommands :
    small.pc = none ∧ (255#16).toNat < 256 ∧ 256 ≤ (256#16).toNat ∧
    (opField 0x05010000#32 = 0x05#8 ∧ (0x05010000#32).extractLsb' 16 8 ≠ 0#8) ∧
    opField 0x06000001#32 = 0x06#8 ∧ (0x06000001#32).extractLsb' 0 24 ≠ 0#24 := by decide +kernel

theorem witness_WriteGlobalRegisters : small.pc = none ∧ (0#32).toNat ≤ 3 ∧ (3#32).toNat ≤ 3 := by decide +kernel
theorem witness_WriteDelayLineRegisters : small.pc = none := rfl
theorem witness_WriteFilterParameters : small.pc = none := rfl

/-- A RAW filter and each of the four commands. -/
theorem witness_RawCoefficientsStand :
    small.pc = none ∧ small.filters[0].kind = .raw ∧
    (∃ t, exec .init small = .next t) ∧ (∃ t, exec (.wreg (regAddr .fs) F32.c8000) small = .next t) ∧
    (∃ t, exec (.wreg (regAddr (.fltFc 0)) F32.c8000) small = .next t) ∧
    ∃ t, exec (.wreg (regAddr (.fltP 0)) F32.one) small = .next t :=
  ⟨rfl, by decide +kernel, next_of_after (by decide +kernel), next_of_after (by decide +kernel), next_of_after (by decide +kernel), next_of_after (by decide +kernel)⟩

theorem witness_WriteCombAndAllPassRegisters : small.pc = none ∧ bankOf 7 = 0 ∧ bankOf 8 = 1 := by decide +kernel

/-- The last unit of bank 0 and the first of bank 1, and a filter no bank owns. -/
theorem witness_DampingWritesAreBroadcast :
    small.pc = none ∧ bankOf 7 = 0 ∧ bankOf 8 = 1 ∧
    (∃ u, exec (.wreg (regAddr (.fltKind (cbf 7))) (kindCode .bypass)) small = .next u) ∧
    (∃ u, exec (.wreg (regAddr (.fltFc (fdf 0))) F32.c1000) small = .next u) ∧
    (∀ c, bankOf c = 0 → (7 : Fin 32) ≠ cbf c) ∧ ∀ i, (23 : Fin 32) ≠ fdf i :=
  ⟨rfl, by decide, by decide, next_of_after (by decide +kernel), next_of_after (by decide +kernel), by decide, by decide⟩

theorem witness_WriteFdnRegisters : small.pc = none := rfl

theorem witness_RecordErrorRule :
    (small.err = false ∧ small.pc = none) ∧ ((running 255).err = false ∧ (running 255).pc = some 255) ∧
    ({ small with err := true } : State).err = true := by decide +kernel

/-- An unmapped RREG and a unit out of range in the host stream, a host-only command and a unit out of range in a
program. -/
theorem witness_CommandErrorIsRecorded :
    small.pc = none ∧ (Instr.rreg 0x0010#16).staticError = some .regAddr ∧
    (Instr.dlRd 0 44#12).staticError = some .unitRange ∧ (running 0).pc = some 0 ∧
    (Instr.frame 0#32 0#32).opcode.hostOnly = true ∧ (Instr.dlRd 0 44#12).opcode.hostOnly = false := by decide +kernel

theorem witness_EveryCommandCompletes :
    (Instr.wreg (regAddr .status) 3#32).staticError = none ∧ (Instr.wreg (regAddr .status) 3#32).opcode ≠ .frame ∧
    small.pc = none ∧
    (∃ t, exec (.wreg (regAddr .status) 3#32) small = .next t) ∧
    (Instr.nop).staticError = none ∧ (Instr.nop).opcode.hostOnly = false ∧ ∃ t, exec .nop (running 0) = .next t :=
  ⟨by decide, by decide, rfl, next_of_after (by decide +kernel), by decide, by decide, next_of_after (by decide +kernel)⟩

theorem witness_FlagsAndRecordAreSticky :
    (∃ t, exec .nop { small with err := true, clamp := true } = .next t) ∧
    (∀ v, Instr.nop ≠ .wreg (regAddr .status) v) ∧
    ({ small with err := true, clamp := true } : State).err = true ∧
    ({ small with err := true, clamp := true } : State).clamp = true :=
  ⟨next_of_after (by decide +kernel), (fun _ h => by cases h), rfl, rfl⟩

theorem witness_DatapathNeverSetsFlags :
    (Instr.dlWr 0 43#12).opcode.hostOnly = false ∧ Instr.dlWr 0 43#12 ≠ .endProg ∧
    (Instr.dlWr 0 43#12).unitOk = true := by decide

theorem witness_ProgramCannotChangeConfiguration :
    (∃ t, runProgram 257 (running 0) = .next t) ∧ ∃ t, exec (.frame 1#32 2#32) small = .next t :=
  ⟨next_of_after (by decide +kernel), next_of_after (by decide +kernel)⟩

theorem witness_OnlyTheirCommandsWriteMemory :
    (∃ t, exec (.mov 0 1) small = .next t) ∧ (Instr.mov 0 1).opcode ≠ .pload ∧ (Instr.mov 0 1).opcode ≠ .init ∧
    (∀ v, Instr.mov 0 1 ≠ .wreg (regAddr .fs) v) ∧ (Instr.mov 0 1).opcode ≠ .dlWr ∧
    (Instr.mov 0 1).opcode ≠ .fltProc ∧ (Instr.mov 0 1).opcode ≠ .frame ∧ (Instr.mov 0 1).opcode ≠ .out :=
  ⟨next_of_after (by decide +kernel), by decide, by decide, (fun _ h => by cases h), by decide, by decide, by decide,
    by decide⟩

/-- A state whose IRQ level follows its flags, before a command, and with a response word to take. -/
theorem witness_IrqFollowsFlagsAndEnables :
    IrqOk (receiving [0x07000000#32]) ∧ (∃ t, step (receiving [0x07000000#32]) = .next t) ∧
    IrqOk { small with rsp := [1#32] } ∧ ∃ t, hostTake { small with rsp := [1#32] } = some (1#32, t) :=
  ⟨fun _ => rfl, next_of_after (by decide +kernel), fun _ => rfl, _, rfl⟩

/-- Finite operands at the ends of the format, an exact zero sum, a divisor that is not zero. -/
theorem witness_AddRoundsToNearestEven :
    F32.isFinite 0x7F7FFFFF#32 = true ∧ F32.isFinite 0x00000001#32 = true ∧
    F32.val 0x80000000#32 + F32.val 0x80000000#32 = 0 := by decide +kernel

theorem witness_MulAndDivRoundToNearestEven :
    F32.isFinite 0x7F7FFFFF#32 = true ∧ F32.isFinite 0x80000001#32 = true ∧ F32.isZero 0x80000001#32 = false := by
  decide +kernel

theorem witness_SanitiserAndClampRules :
    F32.isNaN 0xFFFFFFFF#32 = true ∧ F32.isFinite 0xFF7FFFFF#32 = true ∧
    (F32.isNaN F32.zero = false ∧ F32.isNaN F32.one = false ∧ F32.lt F32.one F32.zero = false) ∧
    F32.lt 0x80000001#32 F32.zero = true ∧ F32.lt F32.one 0x3F800001#32 = true ∧
    InRange F32.zero F32.one 0x80000000#32 ∧ InRange F32.zero F32.one F32.one := by decide +kernel

theorem witness_EveryStepKeepsBuffersOk :
    BuffersOk (receiving [0x22050000#32]) ∧ ∃ t, step (receiving [0x22050000#32]) = .next t :=
  ⟨by decide +kernel, next_of_after (by decide +kernel)⟩

theorem witness_EveryStepKeepsAudioFinite :
    AudioFinite (receiving [0x22050000#32]) ∧ ∃ t, step (receiving [0x22050000#32]) = .next t :=
  ⟨by decide +kernel, next_of_after (by decide +kernel)⟩

theorem witness_EveryStepKeepsRangesAndLengths :
    (BuffersOk (receiving [0x04000000#32]) ∧ RangesOk (receiving [0x04000000#32]) ∧
      LengthsOk (receiving [0x04000000#32])) ∧
    ∃ t, step (receiving [0x04000000#32]) = .next t :=
  ⟨by decide +kernel, next_of_after (by decide +kernel)⟩

theorem witness_EveryStepKeepsControlOk :
    ControlOk (receiving [0x06000000#32, 1#32, 2#32]) ∧ ∃ t, step (receiving [0x06000000#32, 1#32, 2#32]) = .next t :=
  ⟨⟨rfl, Nat.zero_le _⟩, next_of_after (by decide +kernel)⟩

end Sys2Proof.Tests
end

section
/-! ### Binary32: classes of values, the sanitiser and the clamp (spec/00_scope.md R9 to R11) -/

namespace Sys2Proof.F32

open Sys2Proof Sys2Proof.Safety

/-! #### The three classes of a pattern -/

/-- A finite value is no NaN. -/
theorem isNaN_of_isFinite {v : F32} (h : isFinite v = true) : isNaN v = false := by
  have he : expo v ≠ 255 := by simpa [isFinite] using h
  simp [isNaN, he]

/-- A finite value is no infinity. -/
theorem isInf_of_isFinite {v : F32} (h : isFinite v = true) : isInf v = false := by
  have he : expo v ≠ 255 := by simpa [isFinite] using h
  simp [isInf, he]

/-- What is neither NaN nor an infinity is finite. -/
theorem isFinite_of_not {v : F32} (hn : isNaN v = false) (hi : isInf v = false) : isFinite v = true := by
  by_cases he : expo v = 255
  · by_cases hf : frac v = 0 <;> simp [isNaN, isInf, he, hf] at hn hi
  · simp [isFinite, he]

@[simp] theorem isFinite_zero : isFinite zero = true := by decide

/-! #### The sanitiser S -/

theorem sanitise_of_isNaN {v : F32} (h : isNaN v = true) : sanitise v = zero := by
  rw [sanitise, if_pos h]

theorem sanitise_of_isFinite {v : F32} (h : isFinite v = true) : sanitise v = v := by
  simp [sanitise, isNaN_of_isFinite h, isInf_of_isFinite h]

/-- S answers a finite value, whatever it is given (R10). -/
@[simp] theorem isFinite_sanitise (v : F32) : isFinite (sanitise v) = true := by
  unfold sanitise
  split
  case isTrue => exact isFinite_zero
  case isFalse hn =>
    split
    case isTrue => split <;> decide
    case isFalse hi => exact isFinite_of_not (Bool.eq_false_of_not_eq_true hn) (Bool.eq_false_of_not_eq_true hi)

/-! #### The comparison and the clamp clampR -/

/-- On numbers the comparison is that of the exact values. -/
theorem lt_iff {a b : F32} : lt a b = true ↔ isNaN a = false ∧ isNaN b = false ∧ val a < val b := by
  simp [lt, and_assoc]

/-- On numbers the failed comparison is the reverse order of the exact values. -/
theorem lt_eq_false_iff {a b : F32} (ha : isNaN a = false) (hb : isNaN b = false) :
    lt a b = false ↔ val b ≤ val a := by
  simp [lt, ha, hb]

theorem clampR_of_low {v lo hi : F32} (h : isNaN v = true ∨ lt v lo = true) : clampR v lo hi = lo := by
  rw [clampR, if_pos (by simpa using h)]

/-- Above hi a value is not below lo, because lo is not above hi. -/
theorem clampR_of_high {v lo hi : F32} (hlo : isNaN lo = false) (hhi : isNaN hi = false) (hlh : lt hi lo = false)
    (h : lt hi v = true) : clampR v lo hi = hi := by
  obtain ⟨-, hv, hval⟩ := lt_iff.mp h
  have hle := (lt_eq_false_iff hhi hlo).mp hlh
  have hlow : lt v lo = false := (lt_eq_false_iff hv hlo).mpr (by omega)
  simp [clampR, hv, hlow, h]

theorem clampR_of_inRange {v lo hi : F32} (h : InRange lo hi v) : clampR v lo hi = v := by
  obtain ⟨hv, hlow, hhigh⟩ := h
  simp [clampR, hv, hlow, hhigh]

theorem lt_irrefl (v : F32) : lt v v = false := by simp [lt]

/-- clampR with numbers lo <= hi answers a number in [lo, hi] (R11). -/
theorem inRange_clampR {lo hi : F32} (v : F32) (hlo : isNaN lo = false) (hhi : isNaN hi = false)
    (hlh : lt hi lo = false) : InRange lo hi (clampR v lo hi) := by
  by_cases hlow : isNaN v = true ∨ lt v lo = true
  · rw [clampR_of_low hlow]
    exact ⟨hlo, lt_irrefl lo, hlh⟩
  · obtain ⟨hv, hvlo⟩ : isNaN v = false ∧ lt v lo = false := by simpa using hlow
    cases hhigh : lt hi v with
    | true =>
      rw [clampR_of_high hlo hhi hlh hhigh]
      exact ⟨hhi, hlh, lt_irrefl hi⟩
    | false =>
      have hin : InRange lo hi v := ⟨hv, hvlo, hhigh⟩
      rw [clampR_of_inRange hin]
      exact hin

/-- Settles O53. -/
theorem sanitiserAndClampRules : Obligations.SanitiserAndClampRules := by
  refine ⟨fun v => ⟨sanitise_of_isNaN, sanitise_of_isFinite, isFinite_sanitise v⟩, ⟨by decide, by decide⟩, ?_⟩
  intro v lo hi hlo hhi hlh
  exact ⟨clampR_of_low, clampR_of_high hlo hhi hlh, clampR_of_inRange, inRange_clampR v hlo hhi hlh⟩

end Sys2Proof.F32
end

section
/-! ### Every step keeps the audio state finite (spec/00_scope.md R10, spec/60_exceptions.md R416)

Every operation either leaves the audio state as it is, or stores what S answers, a constant, or a value that was finite
already. One lemma per shared operation says so; the commands and the register writes are put together from them. -/

namespace Sys2Proof.Machine

open Sys2Proof Sys2Proof.Safety

/-! #### What is finite in one unit -/

/-- Every listed word of a buffer is finite: the clause of `AudioFinite` about one delay line. -/
abbrev MemFinite (m : Mem) : Prop := ∀ c ∈ m, F32.isFinite c.2 = true

/-- The coefficients and the state words of a filter are finite: the clause of `AudioFinite` about one filter. -/
abbrev FilterFinite (f : Filter) : Prop :=
  CoefsFinite f.co ∧ F32.isFinite f.s1 = true ∧ F32.isFinite f.s2 = true

/-- A read of a buffer of finite words is finite: an unlisted word reads as +0.0. -/
theorem isFinite_memRead {m : Mem} (h : MemFinite m) (a : Nat) : F32.isFinite (memRead m a) = true := by
  rcases memRead_mem m a with hd | hm
  · rw [hd]; decide
  · exact h (a, memRead m a) hm

theorem memFinite_memWrite {m : Mem} {v : Word} (h : MemFinite m) (a : Nat) (hv : F32.isFinite v = true) :
    MemFinite (memWrite m a v) := by
  intro c hc
  rcases mem_memWrite hc with rfl | hm
  · exact hv
  · exact h c hm

theorem memFinite_dlWrite {ln : Line} (h : MemFinite ln.buf) (v : F32) : MemFinite (dlWrite ln v).buf :=
  memFinite_memWrite h _ (F32.isFinite_sanitise v)

/-- A tap is a word of the buffer or an interpolation through S (R231). -/
theorem isFinite_dlRead {ln : Line} (h : MemFinite ln.buf) (d : F32) : F32.isFinite (dlRead ln d) = true := by
  simp only [dlRead]
  split
  · exact isFinite_memRead h _
  · exact F32.isFinite_sanitise _

theorem filterFinite_fltNext {f : Filter} (h : FilterFinite f) (x : F32) : FilterFinite (fltNext f x) :=
  ⟨h.1, F32.isFinite_sanitise _, F32.isFinite_sanitise _⟩

theorem coefsFinite_bypass : CoefsFinite bypassCoefs := by decide

theorem coefsFinite_sanitise (c : Coefs) : CoefsFinite (sanitiseCoefs c) :=
  ⟨F32.isFinite_sanitise _, F32.isFinite_sanitise _, F32.isFinite_sanitise _, F32.isFinite_sanitise _,
    F32.isFinite_sanitise _⟩

/-- COEFCALC keeps the coefficients of RAW, and stores the constants of BYPASS or what S answers (R261, R267). -/
theorem coefsFinite_coefCalc {f : Filter} (h : CoefsFinite f.co) (fs : F32) : CoefsFinite (coefCalc fs f).1 := by
  unfold coefCalc
  split
  · exact h
  · exact coefsFinite_bypass
  · exact coefsFinite_sanitise _

/-- In the host stream FRAME is the one command whose meaning is not that of a program. -/
theorem executeInProgram_eq_exec_or_frame (i : Instr) (s : State) :
    executeInProgram i s = exec i s ∨ ∃ l r, i = .frame l r := by
  cases i
  case frame l r => exact .inr ⟨l, r, rfl⟩
  all_goals exact .inl rfl

/-! #### The invariant with its clauses named -/

/-- `AudioFinite` clause by clause. -/
structure AudioOk (s : State) : Prop where
  x : ∀ r : Fin 16, F32.isFinite s.x[r] = true
  finL : F32.isFinite s.finL = true
  finR : F32.isFinite s.finR = true
  foutL : F32.isFinite s.foutL = true
  foutR : F32.isFinite s.foutR = true
  line : ∀ l : Fin 44, MemFinite s.lines[l].buf
  filter : ∀ f : Fin 32, FilterFinite s.filters[f]

theorem audioOk_iff (s : State) : AudioOk s ↔ AudioFinite s :=
  ⟨fun h => ⟨h.x, ⟨h.finL, h.finR⟩, ⟨h.foutL, h.foutR⟩, h.line, h.filter⟩,
    fun ⟨hx, ⟨hinL, hinR⟩, ⟨houtL, houtR⟩, hl, hf⟩ => ⟨hx, hinL, hinR, houtL, houtR, hl, hf⟩⟩

/-- The registers that hold samples: x0 to x15 and the two frames. -/
def sampleRegs (s : State) : Vector F32 16 × F32 × F32 × F32 × F32 := (s.x, s.finL, s.finR, s.foutL, s.foutR)

/-- All of the state that `AudioFinite` speaks of. -/
def audioPart (s : State) : (Vector F32 16 × F32 × F32 × F32 × F32) × Vector Line 44 × Vector Filter 32 :=
  (sampleRegs s, s.lines, s.filters)

namespace AudioOk

variable {s t : State}

/-- An operation on lines and filters keeps the invariant when each of them is finite after it. -/
theorem of_units (h : AudioOk s) (e : sampleRegs t = sampleRegs s) (hl : ∀ l : Fin 44, MemFinite t.lines[l].buf)
    (hf : ∀ f : Fin 32, FilterFinite t.filters[f]) : AudioOk t := by
  simp only [sampleRegs, Prod.mk.injEq] at e
  obtain ⟨hx, hinL, hinR, houtL, houtR⟩ := e
  exact ⟨hx ▸ h.x, hinL ▸ h.finL, hinR ▸ h.finR, houtL ▸ h.foutL, houtR ▸ h.foutR, hl, hf⟩

/-- An operation that touches no audio keeps the invariant. -/
theorem of_eq (h : AudioOk s) (e : audioPart t = audioPart s) : AudioOk t := by
  simp only [audioPart, Prod.mk.injEq] at e
  obtain ⟨hx, hl, hf⟩ := e
  exact h.of_units hx (hl ▸ h.line) (hf ▸ h.filter)

/-! #### Errors, responses and the end of a command -/

theorem recordError {k : Cause} {w : Word} (h : AudioOk s) : AudioOk (recordError k w s) := by
  rcases recordError_cases k w s with ⟨-, he⟩ | ⟨-, he⟩ <;> rw [he]
  · exact h
  · exact h.of_eq rfl

theorem raiseError {k : Cause} {i : Instr} (h : AudioOk s) : AudioOk (raiseError k i s) := h.recordError

theorem emit {w : Word} (h : AudioOk s) : AudioOk (emit w s) := h.of_eq rfl

theorem settle (h : AudioOk s) : AudioOk (settle s) := by
  rcases settle_cases s with ⟨-, he⟩ | ⟨-, he⟩ <;> rw [he]
  · exact h
  · exact h.of_eq rfl

theorem consume {n : Nat} (h : AudioOk s) : AudioOk (consume n s) := h.of_eq rfl

theorem emitFailed {w : Word} (h : AudioOk s) : AudioOk (emitFailed w s) := by
  unfold Machine.emitFailed
  split
  · exact h.emit
  · exact h.emit.emit
  · exact h

theorem failWord {k : Cause} {w : Word} (h : AudioOk s) : AudioOk (failWord k w s) :=
  h.consume.recordError.emitFailed

/-- A host-only command keeps the invariant when its effect does: in a program it is only an error. -/
theorem hostOnly (h : AudioOk s) (ht : AudioOk t) {i : Instr} : AudioOk (hostOnly i s t) := by
  unfold Machine.hostOnly
  split
  · exact ht
  · exact h.raiseError

/-! #### Writing one register or unit -/

theorem setX {r : XReg} {v : F32} (h : AudioOk s) (hv : F32.isFinite v = true) : AudioOk (setX r v s) := by
  refine ⟨fun k => ?_, h.finL, h.finR, h.foutL, h.foutR, h.line, h.filter⟩
  rw [setX_x, Fin.getElem_fin, Vector.getElem_set]
  split
  · exact hv
  · exact h.x k

theorem setXS {r : XReg} {v : F32} (h : AudioOk s) : AudioOk (setXS r v s) := h.setX (F32.isFinite_sanitise v)

theorem setLine {l : Fin 44} {ln : Line} (h : AudioOk s) (hl : MemFinite ln.buf) : AudioOk (setLine l ln s) := by
  refine h.of_units rfl (fun k => ?_) h.filter
  rw [setLine_line]
  split
  · exact hl
  · exact h.line k

theorem setFilter {f : Fin 32} {fl : Filter} (h : AudioOk s) (hf : FilterFinite fl) : AudioOk (setFilter f fl s) := by
  refine h.of_units rfl h.line fun g => ?_
  rw [setFilter_filter]
  split
  · exact hf
  · exact h.filter g

/-- Replacing all filters at once, as the broadcast writes do. -/
theorem setFilters {fl : Vector Filter 32} (h : AudioOk s) (hf : ∀ f : Fin 32, FilterFinite fl[f]) :
    AudioOk { s with filters := fl } :=
  h.of_units rfl h.line hf

theorem orClamp {b : Bool} (h : AudioOk s) : AudioOk (orClamp b s) := h.of_eq rfl

theorem setBank {b : Fin 2} {bk : Bank} (h : AudioOk s) : AudioOk (setBank b bk s) := h.of_eq rfl

theorem setFdn {n : Fdn} (h : AudioOk s) : AudioOk { s with fdn := n } := h.of_eq rfl

/-! #### Recomputing derived registers, and INIT -/

theorem recalcLens {sel : Fin 44 → Bool} (h : AudioOk s) : AudioOk (recalcLens sel s) := by
  refine h.of_units (by simp [sampleRegs]) (fun l => ?_) (by simpa using h.filter)
  rw [recalcLens_line]
  split <;> exact h.line l

theorem recalcCoefs {sel : Fin 32 → Bool} (h : AudioOk s) : AudioOk (recalcCoefs sel s) := by
  refine h.of_units (by simp [sampleRegs]) (by simpa using h.line) fun f => ?_
  rw [recalcCoefs_filter]
  split
  · exact ⟨coefsFinite_coefCalc (h.filter f).1 _, (h.filter f).2⟩
  · exact h.filter f

theorem realloc (h : AudioOk s) : AudioOk (realloc s) := by
  refine h.of_units (by simp [sampleRegs]) (fun l => ?_) (by simpa using h.filter)
  rw [realloc_line]
  exact List.forall_mem_nil _

theorem clearFilters (h : AudioOk s) : AudioOk (clearFilters s) := by
  refine h.of_units (by simp [sampleRegs]) (by simpa using h.line) fun f => ?_
  rw [clearFilters_filter]
  exact ⟨(h.filter f).1, F32.isFinite_zero, F32.isFinite_zero⟩

theorem recalcCombs {sel : Fin 16 → Bool} (h : AudioOk s) : AudioOk (recalcCombs sel s) :=
  h.of_eq (by simp [audioPart, sampleRegs])

theorem recalcFdnGains {sel : Fin 8 → Bool} (h : AudioOk s) : AudioOk (recalcFdnGains sel s) :=
  h.of_eq (by simp [audioPart, sampleRegs])

theorem recalcMods (h : AudioOk s) : AudioOk (recalcMods s) := h.of_eq (by simp [audioPart, sampleRegs])

theorem initProc (h : AudioOk s) : AudioOk (initProc s) :=
  h.realloc.recalcLens.recalcCoefs.clearFilters.recalcCombs.recalcFdnGains.recalcMods

/-! #### Register writes -/

theorem setKinds {sel : Fin 32 → Bool} {k : FilterKind} (h : AudioOk s) : AudioOk (setKinds sel k s) := by
  refine recalcCoefs (setFilters h fun f => ?_)
  rw [Fin.getElem_fin, Vector.getElem_ofFn]
  split <;> exact h.filter f

theorem setCutoffs {sel : Fin 32 → Bool} {fc : F32} (h : AudioOk s) : AudioOk (setCutoffs sel fc s) := by
  refine recalcCoefs (setFilters h fun f => ?_)
  rw [Fin.getElem_fin, Vector.getElem_ofFn]
  split <;> exact h.filter f

/-- A coefficient write stores what S answers (R58), when the update keeps the other coefficients. -/
theorem setCoef {f : Fin 32} {upd : F32 → Coefs → Coefs} {v : Word} (h : AudioOk s)
    (hupd : ∀ w, F32.isFinite w = true → CoefsFinite (upd w s.filters[f].co)) : AudioOk (setCoef f upd v s) :=
  orClamp (setFilter h ⟨hupd _ (F32.isFinite_sanitise v), (h.filter f).2⟩)

theorem writeFs {v : Word} (h : AudioOk s) : AudioOk (writeFs v s) := initProc (orClamp (h.of_eq rfl))

theorem writeMaxMs {l : Fin 44} {v : Word} (h : AudioOk s) : AudioOk (writeMaxMs l v s) :=
  orClamp (setLine h (h.line l))

theorem writeLenMs {l : Fin 44} {v : Word} (h : AudioOk s) : AudioOk (writeLenMs l v s) :=
  recalcFdnGains (recalcCombs (recalcLens (orClamp (setLine h (h.line l)))))

theorem writeKind {f : Fin 32} {v : Word} (h : AudioOk s) : AudioOk (writeKind f v s) := by
  unfold Machine.writeKind
  split
  · exact h
  · exact h.setKinds

theorem writeFc {f : Fin 32} {v : Word} (h : AudioOk s) : AudioOk (writeFc f v s) := setCutoffs (orClamp h)

theorem writeP {f : Fin 32} {v : Word} (h : AudioOk s) : AudioOk (writeP f v s) :=
  recalcCoefs (orClamp (setFilter h (h.filter f)))

theorem writeDecay {b : Fin 2} {v : Word} (h : AudioOk s) : AudioOk (writeDecay b v s) :=
  recalcCombs (orClamp (setBank h))

theorem writeSignMode {b : Fin 2} {v : Word} (h : AudioOk s) : AudioOk (writeSignMode b v s) := by
  unfold Machine.writeSignMode
  split
  · exact h
  · exact h.setBank.recalcCombs

theorem writeBankKind {b : Fin 2} {v : Word} (h : AudioOk s) : AudioOk (writeBankKind b v s) := by
  unfold Machine.writeBankKind
  split
  · exact h
  · exact h.setBank.setKinds

theorem writeBankFc {b : Fin 2} {v : Word} (h : AudioOk s) : AudioOk (writeBankFc b v s) :=
  setCutoffs (orClamp (setBank h))

theorem writeApMode {ch : Fin 4} {v : Word} (h : AudioOk s) : AudioOk (writeApMode ch v s) := by
  unfold Machine.writeApMode
  split
  · exact h
  · exact h.of_eq rfl

theorem writeRoom {v : Word} (h : AudioOk s) : AudioOk (writeRoom v s) :=
  recalcFdnGains (recalcLens (orClamp (setFdn h)))

theorem writeFdnDecay {v : Word} (h : AudioOk s) : AudioOk (writeFdnDecay v s) :=
  recalcFdnGains (orClamp (setFdn h))

theorem writeMixMode {v : Word} (h : AudioOk s) : AudioOk (writeMixMode v s) := by
  unfold Machine.writeMixMode
  split
  · exact h
  · exact h.setFdn

theorem writeModDepth {v : Word} (h : AudioOk s) : AudioOk (writeModDepth v s) := recalcMods (orClamp (setFdn h))

theorem writeFdnKind {v : Word} (h : AudioOk s) : AudioOk (writeFdnKind v s) := by
  unfold Machine.writeFdnKind
  split
  · exact h
  · exact setKinds (setFdn h)

theorem writeFdnFc {v : Word} (h : AudioOk s) : AudioOk (writeFdnFc v s) := setCutoffs (orClamp (setFdn h))

theorem writeX {i : Fin 16} {v : Word} (h : AudioOk s) : AudioOk (writeX i v s) :=
  orClamp (setX h (F32.isFinite_sanitise v))

theorem writeReg (h : AudioOk s) (r : Reg) (v : Word) : AudioOk (writeReg r v s) := by
  cases r with
  | fs => exact h.writeFs
  | x i => exact h.writeX
  | dlMaxMs l => exact h.writeMaxMs
  | dlLenMs l => exact h.writeLenMs
  | fltKind f => exact h.writeKind
  | fltFc f => exact h.writeFc
  | fltP f => exact h.writeP
  | fltB0 f =>
    obtain ⟨-, h1, h2, h3, h4⟩ := (h.filter f).1
    simp only [Machine.writeReg]
    exact h.setCoef fun _ hw => ⟨hw, h1, h2, h3, h4⟩
  | fltB1 f =>
    obtain ⟨h0, -, h2, h3, h4⟩ := (h.filter f).1
    simp only [Machine.writeReg]
    exact h.setCoef fun _ hw => ⟨h0, hw, h2, h3, h4⟩
  | fltB2 f =>
    obtain ⟨h0, h1, -, h3, h4⟩ := (h.filter f).1
    simp only [Machine.writeReg]
    exact h.setCoef fun _ hw => ⟨h0, h1, hw, h3, h4⟩
  | fltA1 f =>
    obtain ⟨h0, h1, h2, -, h4⟩ := (h.filter f).1
    simp only [Machine.writeReg]
    exact h.setCoef fun _ hw => ⟨h0, h1, h2, hw, h4⟩
  | fltA2 f =>
    obtain ⟨h0, h1, h2, h3, -⟩ := (h.filter f).1
    simp only [Machine.writeReg]
    exact h.setCoef fun _ hw => ⟨h0, h1, h2, h3, hw⟩
  | cbDecay b => exact h.writeDecay
  | cbSignMode b => exact h.writeSignMode
  | cbDampKind b => exact h.writeBankKind
  | cbDampFc b => exact h.writeBankFc
  | apMode ch => exact h.writeApMode
  | fdnRoom => exact h.writeRoom
  | fdnDecay => exact h.writeFdnDecay
  | fdnMixMode => exact h.writeMixMode
  | fdnModDepth => exact h.writeModDepth
  | fdnDampKind => exact h.writeFdnKind
  | fdnDampFc => exact h.writeFdnFc
  | _ => exact h.of_eq rfl

/-! #### Stepping units -/

theorem dlWrite {l : Fin 44} {v : F32} (h : AudioOk s) : AudioOk (Machine.setLine l (dlWrite s.lines[l] v) s) :=
  h.setLine (memFinite_dlWrite (h.line l) v)

theorem fltNext {f : Fin 32} {v : F32} (h : AudioOk s) : AudioOk (Machine.setFilter f (fltNext s.filters[f] v) s) :=
  h.setFilter (filterFinite_fltNext (h.filter f) v)

theorem isFinite_tap {l : Fin 44} {d : F32} (h : AudioOk s) : F32.isFinite (dlRead s.lines[l] d) = true :=
  isFinite_dlRead (h.line l) d

theorem apStep {a : Fin 16} {v : F32} (h : AudioOk s) : AudioOk (apStep a v s) := h.dlWrite

theorem chainRun (h : AudioOk s) (ch : Fin 4) (ks : List (Fin 4)) {v : F32} (hv : F32.isFinite v = true) :
    F32.isFinite (chainRun ch ks v s).1 = true ∧ AudioOk (chainRun ch ks v s).2 := by
  induction ks generalizing v s with
  | nil => exact ⟨hv, h⟩
  | cons k ks ih => exact ih h.apStep (F32.isFinite_sanitise _)

theorem combStep {c : Fin 16} {v : F32} (h : AudioOk s) : AudioOk (combStep c v s) :=
  setFilter h.dlWrite (filterFinite_fltNext (h.filter _) _)

theorem bankStep {b : Fin 2} {v : F32} (h : AudioOk s) : AudioOk (bankStep b v s) := by
  unfold Machine.bankStep
  induction List.finRange 8 generalizing s with
  | nil => exact h
  | cons k ks ih => exact ih h.combStep

theorem fdnStep {xL xR m : F32} (h : AudioOk s) : AudioOk (fdnStep xL xR m s) := by
  refine h.of_units (by simp [sampleRegs]) (fun l => ?_) fun f => ?_
  · simp only [Machine.fdnStep, Fin.getElem_fin, Vector.getElem_ofFn]
    split
    · exact memFinite_dlWrite (h.line l) _
    · exact h.line l
  · simp only [Machine.fdnStep, Fin.getElem_fin, Vector.getElem_ofFn]
    split
    · exact filterFinite_fltNext (h.filter f) _
    · exact h.filter f

/-! #### Commands, programs and steps -/

/-- WREG keeps the invariant: it fails a check or writes its register. -/
theorem execWreg {a : BitVec 16} {v : Word} (h : AudioOk s) (ht : execWreg a v s = .next t) : AudioOk t := by
  obtain rfl := Host.Outcome.next.inj ht
  refine h.hostOnly ?_
  split
  · exact h.raiseError
  · split
    · exact h.raiseError
    · split
      · exact h.writeReg _ v
      · exact h.raiseError

/-- Every command but FRAME keeps the invariant, in the host stream and in a program. A command with a unit field fails
UNIT_RANGE or steps its unit. -/
theorem executeInProgram (h : AudioOk s) (i : Instr) (ht : executeInProgram i s = .next t) : AudioOk t := by
  cases i
  case wreg a v => exact h.execWreg ht
  all_goals obtain rfl := Host.Outcome.next.inj ht
  case endProg => exact h.of_eq rfl
  case nop => exact h
  case rreg a =>
    refine h.hostOnly ?_
    split
    exacts [h.emit.raiseError, h.emit]
  case init => exact h.hostOnly h.initProc
  case pload a p =>
    refine h.hostOnly ?_
    split
    exacts [h.raiseError, h.of_eq rfl]
  case frame l r => exact h.raiseError
  case mov xa xb => exact h.setX (h.x xb)
  case add xa xb xc => exact h.setXS
  case sub xa xb xc => exact h.setXS
  case mul xa xb xc => exact h.setXS
  case ldk xa k => exact h.setXS
  case inp xa xb => exact (h.setX h.finL).setX h.finR
  case out xb xc => exact ⟨h.x, h.finL, h.finR, h.x xb, h.x xc, h.line, h.filter⟩
  case dlRd xa u =>
    split
    exacts [h.raiseError, h.setX h.isFinite_tap]
  case dlRdo xa xb u =>
    split
    exacts [h.raiseError, h.setX h.isFinite_tap]
  case dlWr xb u =>
    split
    exacts [h.raiseError, h.dlWrite]
  case dlProc xa xb u =>
    split
    exacts [h.raiseError, h.dlWrite.setX h.isFinite_tap]
  case fltProc xa xb u =>
    split
    exacts [h.raiseError, h.fltNext.setX (F32.isFinite_sanitise _)]
  case combProc xa xb u =>
    split
    exacts [h.raiseError, h.combStep.setX (F32.isFinite_sanitise _)]
  case cbProc xa xb u =>
    split
    exacts [h.raiseError, h.bankStep.setXS]
  case apProc xa xb u =>
    split
    exacts [h.raiseError, h.apStep.setX (F32.isFinite_sanitise _)]
  case apcProc xa xb u =>
    split
    · exact h.raiseError
    next ch _ =>
      obtain ⟨hv, hs⟩ := h.chainRun ch [0, 1, 2, 3] (h.x xb)
      exact hs.setX hv
  case fdnProc xa xb xc xe xm => exact h.fdnStep.setXS.setXS

theorem programStep {p : Nat} (h : AudioOk s) (ht : programStep p s = .next t) : AudioOk t := by
  rcases programStep_cases ht with ⟨i, -, u, -, hu, rfl⟩ | ⟨w, -, rfl⟩ | ⟨w, -, rfl⟩ | ⟨-, rfl⟩
  · exact (h.executeInProgram i hu).of_eq rfl
  · exact h.recordError.of_eq rfl
  · exact h.recordError.of_eq rfl
  · exact h.recordError.of_eq rfl

theorem completeFrame (h : AudioOk s) (ht : completeFrame s = .next t) : AudioOk t := by
  obtain ⟨u, hu, rfl⟩ := completeFrame_cases ht
  have hrun : AudioOk u :=
    runProgram_keeps (P := AudioOk) (fun _ _ _ hs _ hstep => (hs.programStep hstep).of_eq rfl) h hu
  exact hrun.of_eq rfl

/-- FRAME starts with an input frame through S and an output frame +0.0 (R185). -/
theorem startFrame (h : AudioOk s) (l r : Word) : AudioOk (startFrame l r s) :=
  ⟨h.x, F32.isFinite_sanitise l, F32.isFinite_sanitise r, F32.isFinite_zero, F32.isFinite_zero, h.line, h.filter⟩

/-- Every command keeps the invariant, FRAME with its whole program included. -/
theorem exec (h : AudioOk s) (i : Instr) (ht : exec i s = .next t) : AudioOk t := by
  cases hp : s.pc with
  | some p => exact h.executeInProgram i (executeInProgram_eq_exec hp i ▸ ht)
  | none =>
    rcases executeInProgram_eq_exec_or_frame i s with he | ⟨l, r, rfl⟩
    · exact h.executeInProgram i (he.trans ht)
    · exact (h.startFrame l r).completeFrame (execFrame_host hp l r ▸ ht)

theorem fetched_failed (h : AudioOk s) (hf : fetchCommand s = .failed t) : AudioOk t := by
  rcases fetchCommand_cases s with ⟨i, rest, -, he⟩ | ⟨w, -, he⟩ | ⟨w, -, he⟩ | ⟨-, he⟩ <;> rw [he] at hf
  · cases hf
  · exact Fetched.failed.inj hf ▸ h.failWord
  · exact Fetched.failed.inj hf ▸ h.failWord
  · cases hf

theorem fetched_run {i : Instr} (h : AudioOk s) (hf : fetchCommand s = .run i t) : AudioOk t := by
  rcases fetchCommand_cases s with ⟨j, rest, -, he⟩ | ⟨w, -, he⟩ | ⟨w, -, he⟩ | ⟨-, he⟩ <;> rw [he] at hf
  · exact (Fetched.run.inj hf).2 ▸ h.consume
  all_goals cases hf

theorem step (h : AudioOk s) (ht : step s = .next t) : AudioOk t := by
  rcases step_cases ht with ⟨-, rfl⟩ | ⟨-, -, u, hu, rfl⟩ | ⟨-, -, -, rfl⟩ | ⟨-, -, u, hu, rfl⟩ |
    ⟨-, -, i, s', u, hf, hu, rfl⟩
  · exact h
  · exact (h.completeFrame hu).settle
  · exact h
  · exact (h.fetched_failed hu).settle
  · exact ((h.fetched_run hf).exec i hu).settle

end AudioOk

/-- Settles O57: whatever a step does, what it stores as audio went through S or was finite before. -/
theorem everyStepKeepsAudioFinite : Obligations.EveryStepKeepsAudioFinite := by
  intro s t h ht
  exact (audioOk_iff t).mp (((audioOk_iff s).mpr h).step ht)

end Sys2Proof.Machine
end

section
/-! ### Binary32 operators answer the exact result rounded to nearest, ties to even (spec/00_scope.md R9)

The bits that `roundMag` answers stand for m * 2^k units, where k is the exponent shift and m is the number of such steps
nearest to the exact result. Every value a pattern can stand for is a whole number of these steps too, or lies below 2^23
of them, and then 2^23 steps are nearer: so the nearest whole number of steps is the nearest value. -/

namespace Sys2Proof.F32

open Sys2Proof Sys2Proof.Safety

/-! #### Patterns made from a sign and 31 bits -/

theorem expo_eq (v : F32) : expo v = v.toNat / 2 ^ 23 % 2 ^ 8 := extract_toNat v 23 8

theorem frac_eq (v : F32) : frac v = v.toNat % 2 ^ 23 := by
  rw [frac, extract_toNat, pow_zero, Nat.div_one]

theorem frac_lt (v : F32) : frac v < 2 ^ 23 := (v.extractLsb' 0 23).isLt

theorem toNat_pack {bits : Nat} (h : bits < 2 ^ 31) (neg : Bool) :
    (pack neg bits).toNat = bits + if neg then 2 ^ 31 else 0 := by
  rw [pack, BitVec.toNat_ofNat]
  apply Nat.mod_eq_of_lt
  split <;> omega

theorem isNeg_pack {bits : Nat} (h : bits < 2 ^ 31) (neg : Bool) : isNeg (pack neg bits) = neg := by
  rw [isNeg, BitVec.msb_eq_decide, toNat_pack h]
  cases neg
  · simpa using h
  · simp

theorem expo_pack {bits : Nat} (h : bits < 2 ^ 31) (neg : Bool) : expo (pack neg bits) = bits / 2 ^ 23 := by
  rw [expo_eq, toNat_pack h]
  split <;> omega

theorem frac_pack {bits : Nat} (h : bits < 2 ^ 31) (neg : Bool) : frac (pack neg bits) = bits % 2 ^ 23 := by
  rw [frac_eq, toNat_pack h]
  split <;> omega

theorem getLsbD_zero_pack {bits : Nat} (h : bits < 2 ^ 31) (neg : Bool) :
    (pack neg bits).getLsbD 0 = decide (bits % 2 = 1) := by
  rw [BitVec.getLsbD, toNat_pack h, Nat.testBit_zero, decide_eq_decide]
  split <;> omega

/-- A pattern below the one of the infinity is finite. -/
theorem isFinite_pack {bits : Nat} (h : bits < 0x7F800000) (neg : Bool) : isFinite (pack neg bits) = true := by
  simp only [isFinite, bne_iff_ne, ne_eq]
  rw [expo_pack (by omega)]
  omega

/-- The number n with a sign. -/
def signed (neg : Bool) (n : Nat) : Int := if neg then -(n : Int) else n

theorem val_eq_signed (v : F32) : val v = signed (isNeg v) (mag v) := rfl

@[simp] theorem natAbs_signed (neg : Bool) (n : Nat) : (signed neg n).natAbs = n := by
  cases neg <;> simp [signed]

/-- A product has the product of the magnitudes and the exclusive-or of the signs. -/
theorem signed_mul (p q : Bool) (m n : Nat) : signed p m * signed q n = signed (p != q) (m * n) := by
  cases p <;> cases q <;> simp [signed]

theorem signed_mul_nat (p : Bool) (m n : Nat) : signed p m * n = signed p (m * n) := by
  cases p <;> simp [signed]

theorem signed_le (p : Bool) (n : Nat) : signed p n ≤ n := by
  unfold signed
  split <;> omega

theorem decide_signed_neg (p : Bool) {n : Nat} (h : 0 < n) : decide (signed p n < 0) = p := by
  cases p <;> simp [signed]
  omega

/-- Flipping the sign of a value negates it. -/
theorem signed_flip (neg : Bool) (v : F32) : signed (neg != isNeg v) (mag v) = if neg then -val v else val v := by
  cases neg <;> cases h : isNeg v <;> simp [signed, val, h]

/-- The distance to a multiple is that of the negated numbers. -/
theorem natAbs_sub_mul_neg (n m d : Int) : (-n - m * d).natAbs = (n - -m * d).natAbs := by
  rw [← Int.natAbs_neg]
  congr 1
  ring

/-- The bits of k steps of exponent shift and m steps of 2^k units stand for m * 2^k units, when m has 24 bits, or fewer at
shift 0, or is the carry 2^24 out of a rounding up. -/
theorem mag_pack {k m : Nat} (hm : m ≤ 2 ^ 24) (hk : k = 0 ∨ 2 ^ 23 ≤ m) (hbits : k * 2 ^ 23 + m < 2 ^ 31) (neg : Bool) :
    mag (pack neg (k * 2 ^ 23 + m)) = m * 2 ^ k := by
  rw [mag, expo_pack hbits, frac_pack hbits]
  rcases Nat.lt_or_ge m (2 ^ 23) with hlt | hge
  · obtain rfl : k = 0 := by omega
    rw [if_pos (by omega), pow_zero]
    omega
  · rcases Nat.lt_or_ge m (2 ^ 24) with hlt | hge'
    · have he : (k * 2 ^ 23 + m) / 2 ^ 23 = k + 1 := by omega
      have hf : 2 ^ 23 + (k * 2 ^ 23 + m) % 2 ^ 23 = m := by omega
      rw [he, if_neg (by omega), hf, Nat.add_sub_cancel]
    · obtain rfl : m = 2 ^ 24 := by omega
      have he : (k * 2 ^ 23 + 2 ^ 24) / 2 ^ 23 = k + 2 := by omega
      have hf : (k * 2 ^ 23 + 2 ^ 24) % 2 ^ 23 = 0 := by omega
      rw [he, if_neg (by omega), hf, show k + 2 - 1 = k + 1 by omega, pow_succ]
      omega

/-- Every value is a whole number of steps of 2^k units, or below 2^23 of them at a shift that is not 0. -/
theorem mag_steps (v : F32) (k : Nat) : (∃ j, mag v = j * 2 ^ k) ∨ (k ≠ 0 ∧ mag v < 2 ^ 23 * 2 ^ k) := by
  rcases Nat.eq_zero_or_pos k with rfl | hk
  · exact .inl ⟨mag v, by simp⟩
  have hfrac := frac_lt v
  rw [mag]
  split
  case isTrue =>
    exact .inr ⟨hk.ne', hfrac.trans_le (Nat.le_mul_of_pos_right _ (Nat.two_pow_pos k))⟩
  case isFalse he =>
    rcases Nat.lt_or_ge (expo v - 1) k with hlt | hge
    · right
      refine ⟨hk.ne', ?_⟩
      calc (2 ^ 23 + frac v) * 2 ^ (expo v - 1) < 2 ^ 24 * 2 ^ (expo v - 1) :=
            Nat.mul_lt_mul_of_pos_right (by omega) (Nat.two_pow_pos _)
        _ = 2 ^ 23 * 2 ^ (expo v - 1 + 1) := by rw [pow_succ]; omega
        _ ≤ 2 ^ 23 * 2 ^ k := Nat.mul_le_mul_left _ (Nat.pow_le_pow_right (by omega) hlt)
    · left
      refine ⟨(2 ^ 23 + frac v) * 2 ^ (expo v - 1 - k), ?_⟩
      rw [Nat.mul_assoc, ← pow_add, Nat.sub_add_cancel hge]

/-! #### Rounding to a whole number -/

theorem roundEven_cases (n d : Nat) :
    (roundEven n d = n / d ∧ (2 * (n % d) < d ∨ 2 * (n % d) = d ∧ n / d % 2 = 0)) ∨
    (roundEven n d = n / d + 1 ∧ (d < 2 * (n % d) ∨ 2 * (n % d) = d ∧ n / d % 2 = 1)) := by
  unfold roundEven
  split
  next h => exact .inr ⟨rfl, h⟩
  next h => exact .inl ⟨rfl, by omega⟩

/-- A whole number is c, c + 1, or at least one more step of d away on either side. -/
theorem steps_split (c j : Int) {d : Int} (hd : 0 ≤ d) :
    j = c ∨ j = c + 1 ∨ j * d + d ≤ c * d ∨ c * d + 2 * d ≤ j * d := by
  rcases lt_trichotomy j c with hlt | heq | hgt
  · have hmul := mul_le_mul_of_nonneg_right (Int.add_one_le_iff.mpr hlt) hd
    exact .inr (.inr (.inl (by linarith)))
  · exact .inl heq
  · rcases eq_or_lt_of_le (Int.add_one_le_iff.mpr hgt) with heq | hgt'
    · exact .inr (.inl heq.symm)
    · have hmul := mul_le_mul_of_nonneg_right (Int.add_one_le_iff.mpr hgt') hd
      exact .inr (.inr (.inr (by linarith)))

/-- The rounded number is nearest to n/d, and it is even where another whole number is as near. -/
theorem roundEven_nearest (n : Nat) {d : Nat} (hd : 0 < d) (j : Int) :
    ((n : Int) - roundEven n d * d).natAbs ≤ ((n : Int) - j * d).natAbs ∧
    (((n : Int) - roundEven n d * d).natAbs = ((n : Int) - j * d).natAbs → j ≠ roundEven n d →
      roundEven n d % 2 = 0) := by
  have hn : (n : Int) = (n / d : Nat) * d + (n % d : Nat) := by
    exact_mod_cast (Nat.div_add_mod' n d).symm
  have hr := Nat.mod_lt n hd
  have hsplit := steps_split (n / d : Nat) j (Int.natCast_nonneg d)
  have hcases := roundEven_cases n d
  generalize n / d = c at *
  generalize n % d = r at *
  have hnext : ((c : Int) + 1) * d = c * d + d := by ring
  rcases hcases with ⟨he, hhalf⟩ | ⟨he, hhalf⟩ <;> rw [he]
  · rcases hsplit with rfl | rfl | hj | hj <;> omega
  · rw [Nat.cast_add_one, hnext]
    rcases hsplit with rfl | rfl | hj | hj <;> omega

/-! #### The exponent shift -/

/-- The shift leaves 24 significant bits, or is 0 and leaves fewer. -/
theorem roundShift_spec (n d : Nat) :
    n / (d * 2 ^ roundShift n d) < 2 ^ 24 ∧
    (roundShift n d = 0 ∨ 2 ^ 23 ≤ n / (d * 2 ^ roundShift n d)) := by
  rw [← Nat.div_div_eq_div_mul]
  unfold roundShift
  split
  case isTrue h => simpa using h
  case isFalse h =>
    have hq : n / d ≠ 0 := by omega
    have hlog : 24 ≤ Nat.log2 (n / d) := (Nat.le_log2 hq).mpr (by omega)
    rw [Nat.div_lt_iff_lt_mul (Nat.two_pow_pos _), Nat.le_div_iff_mul_le (Nat.two_pow_pos _), ← pow_add, ← pow_add]
    refine ⟨?_, .inr ?_⟩
    · rw [show 24 + (Nat.log2 (n / d) - 23) = Nat.log2 (n / d) + 1 by omega]
      exact Nat.lt_log2_self
    · rw [show 23 + (Nat.log2 (n / d) - 23) = Nat.log2 (n / d) by omega]
      exact Nat.log2_self_le hq

/-- The number of steps of 2^k units, k the exponent shift, that n/d units are rounded to. -/
def roundSteps (n d : Nat) : Nat := roundEven n (d * 2 ^ roundShift n d)

theorem roundMag_eq (n d : Nat) : roundMag n d = min (roundShift n d * 2 ^ 23 + roundSteps n d) 0x7F800000 := rfl

theorem roundMag_lt (n d : Nat) : roundMag n d < 2 ^ 31 := by
  rw [roundMag_eq]
  omega

theorem roundSteps_bounds (n d : Nat) :
    roundSteps n d ≤ 2 ^ 24 ∧ (roundShift n d = 0 ∨ 2 ^ 23 ≤ roundSteps n d) := by
  have hspec := roundShift_spec n d
  rcases roundEven_cases n (d * 2 ^ roundShift n d) with ⟨he, -⟩ | ⟨he, -⟩ <;> rw [roundSteps, he] <;> omega

/-- Below an even bound N, n/d rounds up to N exactly from half a step below it on: a tie goes to the even N. -/
theorem roundEven_carry {n d N : Nat} (hd : 0 < d) (hN : N % 2 = 0) (hlt : n / d < N) :
    N ≤ roundEven n d ↔ 2 * (N * d) ≤ 2 * n + d := by
  have hn := Nat.div_add_mod' n d
  have hr := Nat.mod_lt n hd
  have hcases := roundEven_cases n d
  generalize n / d = c at *
  generalize n % d = r at *
  rcases Nat.lt_or_ge (c + 1) N with hsmall | hlast
  · have hmul : (c + 1 + 1) * d ≤ N * d := Nat.mul_le_mul_right d hsmall
    rw [Nat.add_mul, Nat.add_mul] at hmul
    omega
  · obtain rfl : N = c + 1 := by omega
    rw [Nat.add_mul]
    omega

/-- How a step of 2^k units compares with 2^252 units, half a step of the largest finite values. -/
theorem step_compare (d k : Nat) :
    (k < 253 ∧ d * 2 ^ k ≤ d * 2 ^ 252) ∨ (k = 253 ∧ d * 2 ^ k = 2 * (d * 2 ^ 252)) ∨
    (253 < k ∧ 4 * (d * 2 ^ 252) ≤ d * 2 ^ k) := by
  rcases lt_trichotomy k 253 with hk | rfl | hk
  · exact .inl ⟨hk, Nat.mul_le_mul_left d (Nat.pow_le_pow_right two_pos (Nat.le_of_lt_succ hk))⟩
  · exact .inr (.inl ⟨rfl, by rw [pow_succ]; ring⟩)
  · refine .inr (.inr ⟨hk, ?_⟩)
    calc 4 * (d * 2 ^ 252) = d * 2 ^ 254 := by ring
      _ ≤ d * 2 ^ k := Nat.mul_le_mul_left d (Nat.pow_le_pow_right two_pos hk)

/-- The comparison of the bits with the infinity, for a step D and half a step e of the largest finite values. -/
theorem overflow_compare {n k m D e : Nat} (hm : m ≤ 2 ^ 24) (hlt : n < 2 ^ 24 * D)
    (hge : k = 0 ∨ (2 ^ 23 ≤ m ∧ 2 ^ 23 * D ≤ n)) (hcarry : 2 ^ 24 ≤ m ↔ 2 * (2 ^ 24 * D) ≤ 2 * n + D)
    (hD : (k < 253 ∧ D ≤ e) ∨ (k = 253 ∧ D = 2 * e) ∨ (253 < k ∧ 4 * e ≤ D)) :
    (2 ^ 25 - 1) * e ≤ n ↔ 0x7F800000 ≤ k * 2 ^ 23 + m := by
  rcases hD with ⟨hk, hD⟩ | ⟨hk, hD⟩ | ⟨hk, hD⟩ <;> omega

/-- The bits reach the infinity exactly from half a unit in the last place above FLT_MAX on. -/
theorem overflow_iff (n : Nat) {d : Nat} (hd : 0 < d) :
    (2 ^ 25 - 1) * 2 ^ 252 * d ≤ n ↔ 0x7F800000 ≤ roundShift n d * 2 ^ 23 + roundSteps n d := by
  obtain ⟨hlt, hge⟩ := roundShift_spec n d
  obtain ⟨hm, hm'⟩ := roundSteps_bounds n d
  have hstep : 0 < d * 2 ^ roundShift n d := Nat.mul_pos hd (Nat.two_pow_pos _)
  rw [Nat.mul_assoc, Nat.mul_comm (2 ^ 252)]
  refine overflow_compare hm ((Nat.div_lt_iff_lt_mul hstep).mp hlt) ?_ (roundEven_carry hstep rfl hlt) (step_compare d _)
  rcases hge with hk | hge
  · exact .inl hk
  · exact hm'.imp_right fun h => ⟨h, (Nat.le_div_iff_mul_le hstep).mp hge⟩

/-! #### The nearest value -/

/-- No value is nearer to n/d units than the rounded number of steps, and where another value is as near that number is
even. The value is any magnitude with any sign. -/
theorem roundSteps_nearest (n : Nat) {d : Nat} (hd : 0 < d) (p : Bool) (q : F32) :
    ((n : Int) - (roundSteps n d * 2 ^ roundShift n d : Nat) * d).natAbs ≤ ((n : Int) - signed p (mag q) * d).natAbs ∧
    (((n : Int) - (roundSteps n d * 2 ^ roundShift n d : Nat) * d).natAbs =
        ((n : Int) - signed p (mag q) * d).natAbs →
      signed p (mag q) ≠ (roundSteps n d * 2 ^ roundShift n d : Nat) → roundSteps n d % 2 = 0) := by
  obtain ⟨-, hge⟩ := roundShift_spec n d
  unfold roundSteps
  generalize roundShift n d = k at *
  have hstep : 0 < d * 2 ^ k := Nat.mul_pos hd (Nat.two_pow_pos k)
  have hr : ((roundEven n (d * 2 ^ k) * 2 ^ k : Nat) : Int) * d = roundEven n (d * 2 ^ k) * (d * 2 ^ k : Nat) := by
    push_cast; ring
  rw [hr]
  rcases mag_steps q k with ⟨j, hj⟩ | ⟨hk, hlow⟩
  case inl =>
    have hq : signed p (mag q) * d = signed p j * (d * 2 ^ k : Nat) := by
      rw [hj, ← signed_mul_nat]; push_cast; ring
    obtain ⟨hnear, htie⟩ := roundEven_nearest n hstep (signed p j)
    rw [hq]
    refine ⟨hnear, fun heq hne => htie heq fun hjr => hne ?_⟩
    rw [hj, ← signed_mul_nat, hjr, Nat.cast_mul]
  case inr =>
    have hn : 2 ^ 23 * (d * 2 ^ k) ≤ n := (Nat.le_div_iff_mul_le hstep).mp (hge.resolve_left hk)
    have hq : signed p (mag q) * d < 2 ^ 23 * (d * 2 ^ k : Nat) := by
      calc signed p (mag q) * d ≤ (mag q : Int) * d :=
            mul_le_mul_of_nonneg_right (signed_le p _) (Int.natCast_nonneg d)
        _ < (2 ^ 23 * 2 ^ k * d : Nat) := by exact_mod_cast Nat.mul_lt_mul_of_pos_right hlow hd
        _ = 2 ^ 23 * (d * 2 ^ k : Nat) := by push_cast; ring
    obtain ⟨hnear, -⟩ := roundEven_nearest n hstep (2 ^ 23)
    omega

/-- The rounding of n/d units with a sign is nearest even (R9). -/
theorem nearestEven_pack (neg : Bool) (n : Nat) {d : Nat} (hd : 0 < d) :
    NearestEven (signed neg n) d (pack neg (roundMag n d)) := by
  obtain ⟨hm, hk⟩ := roundSteps_bounds n d
  have hover := overflow_iff n hd
  unfold NearestEven
  rw [natAbs_signed]
  split
  case isTrue h =>
    have hpos : 0 < n := h.trans_lt' (by positivity)
    rw [roundMag_eq, Nat.min_eq_right (hover.mp h), decide_signed_neg neg hpos]
  case isFalse h =>
    have hbits : roundShift n d * 2 ^ 23 + roundSteps n d < 0x7F800000 := Nat.lt_of_not_le (hover.not.mp h)
    rw [roundMag_eq, Nat.min_eq_left hbits.le]
    refine ⟨isFinite_pack hbits neg, fun q _ => ?_⟩
    have hb : roundShift n d * 2 ^ 23 + roundSteps n d < 2 ^ 31 := by omega
    obtain ⟨hnear, htie⟩ := roundSteps_nearest n hd (neg != isNeg q) q
    rw [val_eq_signed (pack _ _), isNeg_pack hb, mag_pack hm hk hb, getLsbD_zero_pack hb, decide_eq_false_iff_not]
    have heven : roundSteps n d % 2 = 0 → ¬ (roundShift n d * 2 ^ 23 + roundSteps n d) % 2 = 1 := by omega
    rw [signed_flip neg q] at hnear htie
    cases neg with
    | false => exact ⟨hnear, fun heq hne => heven (htie heq hne)⟩
    | true =>
      simp only [signed, if_true] at hnear htie ⊢
      rw [natAbs_sub_mul_neg, natAbs_sub_mul_neg, neg_neg]
      exact ⟨hnear, fun heq hne => heven (htie heq fun h => hne (by rw [← h, neg_neg]))⟩

/-! #### The operators on finite values -/

theorem add_of_isFinite {a b : F32} (ha : isFinite a = true) (hb : isFinite b = true) :
    add a b = if val a + val b = 0 then pack (isNeg a && isNeg b) 0
      else pack (decide (val a + val b < 0)) (roundMag (val a + val b).natAbs 1) := by
  simp [add, isNaN_of_isFinite, isInf_of_isFinite, ha, hb]

theorem mul_of_isFinite {a b : F32} (ha : isFinite a = true) (hb : isFinite b = true) :
    mul a b = pack (isNeg a != isNeg b) (roundMag (mag a * mag b) (2 ^ 149)) := by
  simp [mul, isNaN_of_isFinite, isInf_of_isFinite, ha, hb]

theorem div_of_isFinite {a b : F32} (ha : isFinite a = true) (hb : isFinite b = true) (hz : isZero b = false) :
    div a b = pack (isNeg a != isNeg b) (roundMag (mag a * 2 ^ 149) (mag b)) := by
  simp [div, isNaN_of_isFinite, isInf_of_isFinite, ha, hb, hz]

theorem mag_pos {v : F32} (h : isZero v = false) : 0 < mag v := by
  rw [mag]
  split
  case isTrue he =>
    have hf : frac v ≠ 0 := fun hf => by simp [isZero, he, hf] at h
    omega
  case isFalse he => exact Nat.mul_pos (by omega) (Nat.two_pow_pos _)

@[simp] theorem signed_zero (neg : Bool) : signed neg 0 = 0 := by cases neg <;> rfl

theorem roundMag_zero : roundMag 0 1 = 0 := by decide

theorem signed_natAbs (x : Int) : signed (decide (x < 0)) x.natAbs = x := by
  simp only [signed, decide_eq_true_eq]
  split <;> omega

/-- Settles O51. -/
theorem addRoundsToNearestEven : Obligations.AddRoundsToNearestEven := by
  intro a b ha hb
  rw [add_of_isFinite ha hb]
  refine ⟨?_, fun hsum => ?_⟩
  · split
    case isTrue hsum =>
      have hnear := nearestEven_pack (isNeg a && isNeg b) 0 one_pos
      rwa [signed_zero, roundMag_zero, ← hsum] at hnear
    case isFalse hsum =>
      have hnear := nearestEven_pack (decide (val a + val b < 0)) (val a + val b).natAbs one_pos
      rwa [signed_natAbs] at hnear
  · rw [if_pos hsum]
    cases isNeg a <;> cases isNeg b <;> rfl

/-- Settles O52. -/
theorem mulAndDivRoundToNearestEven : Obligations.MulAndDivRoundToNearestEven := by
  intro a b ha hb
  rw [mul_of_isFinite ha hb, val_eq_signed a, val_eq_signed b, signed_mul]
  refine ⟨nearestEven_pack _ _ (Nat.two_pow_pos 149), isNeg_pack (roundMag_lt _ _) _, fun hz => ?_⟩
  rw [div_of_isFinite ha hb hz]
  refine ⟨?_, isNeg_pack (roundMag_lt _ _) _⟩
  have hnum : (if isNeg b then -signed (isNeg a) (mag a) else signed (isNeg a) (mag a)) * 2 ^ 149 =
      signed (isNeg a != isNeg b) (mag a * 2 ^ 149) := by
    rw [← signed_mul]
    cases isNeg b <;> simp [signed]
  rw [hnum]
  exact nearestEven_pack _ _ (mag_pos hz)

end Sys2Proof.F32
end

section
/-! ### The register map (spec/10_state.md R35, R81) -/

namespace Sys2Proof.Machine

open Sys2Proof

/-- An address on a page boundary plus an index names the register of that page and that index (R35). -/
theorem regOf_ofNat {base i : Nat} (hb : base < 65536) (hp : base % 256 = 0) (hi : i < 256) :
    regOf (BitVec.ofNat 16 (base + i)) = regAt (base / 256) i := by
  have hpage : ((BitVec.ofNat 16 (base + i)).extractLsb' 8 8).toNat = base / 256 := by
    simp only [BitVec.extractLsb'_toNat, BitVec.toNat_ofNat, Nat.shiftRight_eq_div_pow]
    omega
  have hidx : ((BitVec.ofNat 16 (base + i)).extractLsb' 0 8).toNat = i := by
    simp only [BitVec.extractLsb'_toNat, BitVec.toNat_ofNat, Nat.shiftRight_eq_div_pow]
    omega
  rw [regOf, hpage, hidx]

/-- Every address is a page and an index. -/
theorem eq_ofNat_page_index (a : BitVec 16) :
    a = BitVec.ofNat 16 ((a.extractLsb' 8 8).toNat * 256 + (a.extractLsb' 0 8).toNat) := by
  apply BitVec.eq_of_toNat_eq
  simp only [BitVec.extractLsb'_toNat, BitVec.toNat_ofNat, Nat.shiftRight_eq_div_pow]
  have := a.isLt
  omega

theorem regInstance_of_fin {n : Nat} (i : Fin n) (mk : Fin n → Reg) : regInstance n i.val mk = some (mk i) := by
  rw [regInstance, dif_pos i.isLt]

theorem regInstance_eq_some {n idx : Nat} {mk : Fin n → Reg} {r : Reg} (h : regInstance n idx mk = some r) :
    ∃ i : Fin n, i.val = idx ∧ r = mk i := by
  unfold regInstance at h
  split at h
  next hi => exact ⟨⟨idx, hi⟩, rfl, (Option.some.inj h).symm⟩
  next => cases h

/-- Every register is named by its own address (R81): an array register stands at its index in its page. -/
@[simp] theorem regOf_regAddr (r : Reg) : regOf (regAddr r) = some r := by
  cases r
  case x | pmem | dlMaxMs | dlLenMs | dlCap | dlLen | dlWptr | fltKind | fltFc | fltP | fltB0 | fltB1 | fltB2 | fltA1 |
      fltA2 | fltS1 | fltS2 | cbFb | cbMk | cbDecay | cbSignMode | cbDampKind | cbDampFc | apG | apMode | fdnG =>
    exact (regOf_ofNat (by decide) (by decide) (by omega)).trans (regInstance_of_fin _ _)
  all_goals rfl

theorem regAddr_of_regGlobal {idx : Nat} {r : Reg} (h : regGlobal idx = some r) :
    regAddr r = BitVec.ofNat 16 idx := by
  unfold regGlobal at h
  split at h
  case h_17 => cases h
  all_goals
    obtain rfl := Option.some.inj h
    rfl

theorem regAddr_of_regFdnScalar {idx : Nat} {r : Reg} (h : regFdnScalar idx = some r) :
    regAddr r = BitVec.ofNat 16 (0x50 * 256 + idx) := by
  unfold regFdnScalar at h
  split at h
  case h_10 => cases h
  all_goals
    obtain rfl := Option.some.inj h
    rfl

/-- What a page and an index name has the address they make. -/
theorem regAddr_of_regAt {p idx : Nat} {r : Reg} (h : regAt p idx = some r) :
    regAddr r = BitVec.ofNat 16 (p * 256 + idx) := by
  unfold regAt at h
  split at h
  case h_1 => rw [regAddr_of_regGlobal h, Nat.zero_mul, Nat.zero_add]
  case h_27 => exact regAddr_of_regFdnScalar h
  case h_29 => cases h
  all_goals
    obtain ⟨i, rfl, rfl⟩ := regInstance_eq_some h
    rfl

/-- Every mapped address is the address of the register it names. -/
theorem regAddr_of_regOf {a : BitVec 16} {r : Reg} (h : regOf a = some r) : regAddr r = a := by
  rw [eq_ofNat_page_index a]
  exact regAddr_of_regAt h

/-- Settles O5: an address is a page and an index, and each page is read back from the register it names. -/
theorem registerMapIsOneToOne : Obligations.RegisterMapIsOneToOne := by
  refine ⟨regOf_regAddr, fun _ _ => regAddr_of_regOf, by decide, fun i => ?_, fun i => ?_, fun l => ?_, fun f => ?_,
    fun c => ?_, fun b => ?_, fun ch => ?_, by decide, fun i => ?_, fun r => ?_⟩
  case refine_9 => cases r <;> simp [regAccess]
  all_goals
    simp only [regAddr, BitVec.toNat_ofNat]
    omega

end Sys2Proof.Machine
end

section
/-! ### What a command can change, said once (spec/40_sequencer.md R180 to R186)

A command of a frame program can write samples to delay lines at their cursors, step filters, write sample registers and
the output frame, record an error and move the PC: `ProgramEffect` says so and that nothing else changes, and it holds
of whole runs too. A command of the host stream has such an effect, or it is one of the host commands with its own effect:
`HostEffect` lists them. -/

namespace Sys2Proof.Machine

open Sys2Proof

/-! #### The effect of a program -/

/-- The first error since ERR was last 0 is kept (R404). -/
def RecordKept (s t : State) : Prop :=
  (t.err = s.err ∧ t.cause = s.cause ∧ t.errWord = s.errWord ∧ t.errPc = s.errPc) ∨ (s.err = false ∧ t.err = true)

theorem RecordKept.refl (s : State) : RecordKept s s := .inl ⟨rfl, rfl, rfl, rfl⟩

theorem RecordKept.trans {s t u : State} (h : RecordKept s t) (h' : RecordKept t u) : RecordKept s u := by
  rcases h with ⟨he, hc, hw, hp⟩ | ⟨hs, ht⟩ <;> rcases h' with ⟨he', hc', hw', hp'⟩ | ⟨ht', hu⟩
  · exact .inl ⟨he'.trans he, hc'.trans hc, hw'.trans hw, hp'.trans hp⟩
  · exact .inr ⟨he ▸ ht', hu⟩
  · exact .inr ⟨hs, he'.trans ht⟩
  · exact .inr ⟨hs, hu⟩

/-- What a frame program leaves alone: s with all that it can change blanked out. -/
def programFrame (s : State) : State :=
  { s with
    x := State.reset.x, foutL := 0, foutR := 0, pc := none, err := false, cause := none, errWord := 0, errPc := 0,
    lines := State.reset.lines, filters := State.reset.filters, irq := false }

/-- All that commands of a frame program do: every line is as some writes at its cursor leave it, every filter is as
before but for its two state words, the error record follows R404, no PC comes into being, and the rest is unchanged. -/
structure ProgramEffect (s t : State) : Prop where
  line : ∀ l : Fin 44, ∃ vs : List F32, t.lines[l] = vs.foldl dlWrite s.lines[l]
  filter : ∀ f : Fin 32, t.filters[f] = { s.filters[f] with s1 := t.filters[f].s1, s2 := t.filters[f].s2 }
  record : RecordKept s t
  pc : s.pc = none → t.pc = none
  rest : programFrame t = programFrame s

namespace ProgramEffect

variable {s t u : State}

/-- An operation that touches no line and no filter. -/
theorem of_eq (hl : t.lines = s.lines) (hf : t.filters = s.filters) (hr : RecordKept s t)
    (hp : s.pc = none → t.pc = none) (h : programFrame t = programFrame s) : ProgramEffect s t :=
  ⟨fun _ => ⟨[], by rw [hl]; rfl⟩, fun _ => by rw [hf], hr, hp, h⟩

theorem refl (s : State) : ProgramEffect s s := of_eq rfl rfl (.refl s) id rfl

theorem trans (h : ProgramEffect s t) (h' : ProgramEffect t u) : ProgramEffect s u where
  line l := by
    obtain ⟨vs, hv⟩ := h.line l
    obtain ⟨ws, hw⟩ := h'.line l
    exact ⟨vs ++ ws, by rw [hw, hv, List.foldl_append]⟩
  filter f := by rw [h'.filter f, h.filter f]
  record := h.record.trans h'.record
  pc := h'.pc ∘ h.pc
  rest := h'.rest.trans h.rest

/-! #### The operations of a program -/

theorem setX (r : XReg) (v : F32) : ProgramEffect s (setX r v s) := of_eq rfl rfl (.refl s) id rfl

/-- DlWrite on one line. -/
theorem dlWrite (l : Fin 44) (v : F32) : ProgramEffect s (setLine l (dlWrite s.lines[l] v) s) where
  line k := by
    rw [setLine_line]
    split
    next hk => exact ⟨[v], by rw [← hk]; rfl⟩
    next => exact ⟨[], rfl⟩
  filter _ := rfl
  record := .refl s
  pc := id
  rest := rfl

/-- FltStep of one filter. -/
theorem fltNext (f : Fin 32) (v : F32) : ProgramEffect s (setFilter f (fltNext s.filters[f] v) s) where
  line _ := ⟨[], rfl⟩
  filter g := by
    rw [setFilter_filter]
    split
    next hg => rw [← hg]; rfl
    next => rfl
  record := .refl s
  pc := id
  rest := rfl

theorem apStep (a : Fin 16) (v : F32) : ProgramEffect s (apStep a v s) := dlWrite _ _

theorem chainRun (ch : Fin 4) (ks : List (Fin 4)) (v : F32) : ProgramEffect s (chainRun ch ks v s).2 := by
  induction ks generalizing v s with
  | nil => exact refl s
  | cons k ks ih => exact (apStep _ v).trans (ih _)

theorem combStep (c : Fin 16) (v : F32) : ProgramEffect s (combStep c v s) :=
  (dlWrite (cbl c) _).trans (fltNext (cbf c) _)

theorem bankStep (b : Fin 2) (v : F32) : ProgramEffect s (bankStep b v s) := by
  unfold Machine.bankStep
  induction List.finRange 8 generalizing s with
  | nil => exact refl s
  | cons k ks ih => exact (combStep _ v).trans ih

theorem fdnStep (xL xR m : F32) : ProgramEffect s (fdnStep xL xR m s) where
  line l := by
    simp only [Machine.fdnStep, Fin.getElem_fin, Vector.getElem_ofFn]
    split
    · exact ⟨[_], rfl⟩
    · exact ⟨[], rfl⟩
  filter f := by
    simp only [Machine.fdnStep, Fin.getElem_fin, Vector.getElem_ofFn]
    split <;> rfl
  record := .inl ⟨by simp, by simp, by simp, by simp⟩
  pc := by simp
  rest := by simp only [programFrame, Machine.fdnStep]

theorem recordError (k : Cause) (w : Word) : ProgramEffect s (recordError k w s) := by
  rcases recordError_cases k w s with ⟨-, he⟩ | ⟨hs, he⟩ <;> rw [he]
  · exact refl s
  · exact of_eq rfl rfl (.inr ⟨hs, rfl⟩) id rfl

theorem raiseError (k : Cause) (i : Instr) : ProgramEffect s (raiseError k i s) := recordError k _

theorem advancePc (n : Nat) : ProgramEffect s (advancePc n s) :=
  of_eq rfl rfl (.refl s) (fun h => by rw [advancePc_pc, h]; rfl) rfl

theorem endPc : ProgramEffect s { s with pc := none } := of_eq rfl rfl (.refl s) (fun _ => rfl) rfl

theorem updateIrq : ProgramEffect s (updateIrq s) := of_eq rfl rfl (.refl s) id rfl

theorem settle : ProgramEffect s (settle s) := by
  rcases settle_cases s with ⟨-, he⟩ | ⟨-, he⟩ <;> rw [he]
  · exact refl s
  · exact updateIrq

/-! #### The commands of a program, and its runs -/

/-- A host-only command in a program is an error. -/
theorem hostOnly {i : Instr} (h : s.pc ≠ none) : ProgramEffect s (hostOnly i s u) := by
  obtain ⟨p, hp⟩ := Option.ne_none_iff_exists'.mp h
  rw [hostOnly_program hp]
  exact raiseError _ _

/-- Every command of a program has a program effect, and so has every command of the host stream that is not host-only.
A command with a unit field fails UNIT_RANGE or steps its unit. -/
theorem executeInProgram {i : Instr} (h : s.pc ≠ none ∨ i.opcode.hostOnly = false)
    (ht : executeInProgram i s = .next t) : ProgramEffect s t := by
  cases i
  all_goals obtain rfl := Host.Outcome.next.inj ht
  case wreg | rreg | init | pload => exact hostOnly (h.resolve_right nofun)
  case frame l r => exact raiseError _ _
  case endProg => exact endPc
  case nop => exact refl s
  case mov | add | sub | mul | ldk => exact setX _ _
  case inp xa xb => exact (setX _ _).trans (setX _ _)
  case out xb xc => exact of_eq rfl rfl (.refl s) id rfl
  case dlRd xa u =>
    split
    exacts [raiseError _ _, setX _ _]
  case dlRdo xa xb u =>
    split
    exacts [raiseError _ _, setX _ _]
  case dlWr xb u =>
    split
    exacts [raiseError _ _, dlWrite _ _]
  case dlProc xa xb u =>
    split
    exacts [raiseError _ _, (dlWrite _ _).trans (setX _ _)]
  case fltProc xa xb u =>
    split
    exacts [raiseError _ _, (fltNext _ _).trans (setX _ _)]
  case combProc xa xb u =>
    split
    exacts [raiseError _ _, (combStep _ _).trans (setX _ _)]
  case cbProc xa xb u =>
    split
    exacts [raiseError _ _, (bankStep _ _).trans (setX _ _)]
  case apProc xa xb u =>
    split
    exacts [raiseError _ _, (apStep _ _).trans (setX _ _)]
  case apcProc xa xb u =>
    split
    exacts [raiseError _ _, (chainRun _ _ _).trans (setX _ _)]
  case fdnProc xa xb xc xe xm => exact ((fdnStep _ _ _).trans (setX _ _)).trans (setX _ _)

theorem programStep {p : Nat} (hp : s.pc = some p) (ht : programStep p s = .next t) : ProgramEffect s t := by
  have hpc : s.pc ≠ none := hp ▸ nofun
  rcases programStep_cases ht with ⟨i, -, u, -, hu, rfl⟩ | ⟨w, -, rfl⟩ | ⟨w, -, rfl⟩ | ⟨-, rfl⟩
  · exact (executeInProgram (.inl hpc) hu).trans (advancePc _)
  · exact (recordError _ w).trans (advancePc _)
  · exact (recordError _ w).trans (advancePc _)
  · exact (recordError _ _).trans endPc

/-- A whole run of a frame program has a program effect. -/
theorem runProgram {n : Nat} (ht : runProgram n s = .next t) : ProgramEffect s t :=
  runProgram_keeps (P := ProgramEffect s) (fun _ _ _ hs hp hstep => (hs.trans (programStep hp hstep)).trans updateIrq)
    (refl s) ht

end ProgramEffect

/-- Completing a FRAME is a run of its program, the count and the two words. -/
theorem completeFrame_effect {s t : State} (ht : completeFrame s = .next t) :
    ∃ u, ProgramEffect s u ∧ t = finishFrame u := by
  obtain ⟨u, hu, rfl⟩ := completeFrame_cases ht
  exact ⟨u, .runProgram hu, rfl⟩

/-! #### The commands of the host stream -/

/-- All that command i can do in the host stream: what a command of a program does, also as a failed check, or the
effect of WREG, RREG, INIT, PLOAD or FRAME. -/
inductive HostEffect (s : State) : Instr → State → Prop
  | program {i t} : ProgramEffect s t → HostEffect s i t
  | write {a v r} : regOf a = some r → regAccess r ≠ .ro → regLegal r v = true →
      HostEffect s (.wreg a v) (writeReg r v s)
  | respond {a t} (w : Word) : ProgramEffect (emit w s) t → HostEffect s (.rreg a) t
  | init : HostEffect s .init (initProc s)
  | store {a p} (k : Fin 256) : HostEffect s (.pload a p) { s with pmem := s.pmem.set k p }
  | frame {l r u} : ProgramEffect (startFrame l r s) u → HostEffect s (.frame l r) (finishFrame u)

/-- WREG fails a check or writes its register. -/
theorem execWreg_effect {a : BitVec 16} {v : Word} {s t : State} (hp : s.pc = none)
    (ht : execWreg a v s = .next t) : HostEffect s (.wreg a v) t := by
  obtain rfl := Host.Outcome.next.inj ht
  rw [hostOnly_host hp]
  split
  · exact .program (.raiseError _ _)
  next r hr =>
    split
    · exact .program (.raiseError _ _)
    next hro =>
      split
      next hlegal => exact .write hr hro hlegal
      next => exact .program (.raiseError _ _)

/-- RREG emits its word, which an unmapped address gives too, with an error. -/
theorem execRreg_effect {a : BitVec 16} {s t : State} (hp : s.pc = none) (ht : execRreg a s = .next t) :
    HostEffect s (.rreg a) t := by
  obtain rfl := Host.Outcome.next.inj ht
  rw [hostOnly_host hp]
  split
  · exact .respond _ (.raiseError _ _)
  · exact .respond _ (.refl _)

theorem execPload_effect {a : BitVec 16} {p : Word} {s t : State} (hp : s.pc = none)
    (ht : execPload a p s = .next t) : HostEffect s (.pload a p) t := by
  obtain rfl := Host.Outcome.next.inj ht
  rw [hostOnly_host hp]
  split
  · exact .program (.raiseError _ _)
  next k _ => exact .store k

theorem execInit_host {s : State} (hp : s.pc = none) : exec .init s = .next (initProc s) := by
  rw [exec, execInit, hostOnly_host hp]

/-- Every command of the host stream has one of these effects. -/
theorem exec_effect {i : Instr} {s t : State} (hp : s.pc = none) (ht : exec i s = .next t) : HostEffect s i t := by
  cases hh : i.opcode.hostOnly with
  | false =>
    rcases executeInProgram_eq_exec_or_frame i s with he | ⟨l, r, rfl⟩
    · exact .program (.executeInProgram (.inr hh) (he.trans ht))
    · cases hh
  | true =>
    cases i
    case wreg a v => exact execWreg_effect hp ht
    case rreg a => exact execRreg_effect hp ht
    case init => exact Host.Outcome.next.inj (execInit_host hp ▸ ht) ▸ .init
    case pload a p => exact execPload_effect hp ht
    case frame l r =>
      obtain ⟨u, hu, rfl⟩ := completeFrame_effect (execFrame_host hp l r ▸ ht)
      exact .frame hu
    all_goals cases hh

/-! #### What the next host words give -/

/-- A header that gives no command fails with a cause. -/
theorem fetched_failed {s t : State} (h : fetchCommand s = .failed t) : ∃ k w, t = failWord k w s := by
  rcases fetchCommand_cases s with ⟨i, rest, -, he⟩ | ⟨w, -, he⟩ | ⟨w, -, he⟩ | ⟨-, he⟩ <;> rw [he] at h
  · cases h
  · exact ⟨_, w, (Fetched.failed.inj h).symm⟩
  · exact ⟨_, w, (Fetched.failed.inj h).symm⟩
  · cases h

/-- A fetched command runs with its words consumed. -/
theorem fetched_run {i : Instr} {s t : State} (h : fetchCommand s = .run i t) : t = consume i.length s := by
  rcases fetchCommand_cases s with ⟨j, rest, -, he⟩ | ⟨w, -, he⟩ | ⟨w, -, he⟩ | ⟨-, he⟩ <;> rw [he] at h
  · obtain ⟨rfl, rfl⟩ := Fetched.run.inj h
    rfl
  all_goals cases h

end Sys2Proof.Machine
end

section
/-! ### What a register write leaves alone, the sticky flags, and the control state between steps
(spec/10_state.md R33, R38, R39, spec/30_encoding.md R152, spec/60_exceptions.md R408) -/

namespace Sys2Proof.Machine

open Sys2Proof Sys2Proof.Safety

/-! #### Register writes -/

/-- What no register write and no INIT touches: s with the sample registers, the enables, the units, FS, CLAMP and
ERR blanked out. -/
def writeFrame (s : State) : State :=
  { s with
    x := State.reset.x, errIe := false, clampIe := false, fs := 0, lines := State.reset.lines,
    filters := State.reset.filters, combs := State.reset.combs, banks := State.reset.banks,
    chains := State.reset.chains, fdn := State.reset.fdn, err := false, clamp := false }

/-- What every register write but one to STATUS does to the rest of the state: CLAMP is sticky, and all that
`writeFrame` shows, and ERR, are unchanged. -/
structure WriteEffect (s t : State) : Prop where
  clamp : s.clamp = true → t.clamp = true
  err : t.err = s.err
  rest : writeFrame t = writeFrame s

namespace WriteEffect

variable {s t u : State}

theorem refl (s : State) : WriteEffect s s := ⟨id, rfl, rfl⟩

theorem trans (h : WriteEffect s t) (h' : WriteEffect t u) : WriteEffect s u :=
  ⟨h'.clamp ∘ h.clamp, h'.err.trans h.err, h'.rest.trans h.rest⟩

theorem orClamp (b : Bool) (h : WriteEffect s t) : WriteEffect s (orClamp b t) :=
  h.trans ⟨fun hc => by rw [orClamp_clamp, hc, Bool.true_or], rfl, rfl⟩

theorem recalcLens (sel : Fin 44 → Bool) (h : WriteEffect s t) : WriteEffect s (recalcLens sel t) :=
  h.trans ⟨fun hc => (recalcLens_clamp sel t).mpr (.inl hc), by simp, by simp only [writeFrame, Machine.recalcLens]⟩

theorem recalcCoefs (sel : Fin 32 → Bool) (h : WriteEffect s t) : WriteEffect s (recalcCoefs sel t) :=
  h.trans ⟨fun hc => (recalcCoefs_clamp sel t).mpr (.inl hc), by simp, by simp only [writeFrame, Machine.recalcCoefs]⟩

theorem recalcCombs (sel : Fin 16 → Bool) (h : WriteEffect s t) : WriteEffect s (recalcCombs sel t) :=
  h.trans ⟨fun hc => (recalcCombs_clamp sel t).mpr (.inl hc), by simp, by simp only [writeFrame, Machine.recalcCombs]⟩

theorem recalcFdnGains (sel : Fin 8 → Bool) (h : WriteEffect s t) : WriteEffect s (recalcFdnGains sel t) :=
  h.trans ⟨fun hc => (recalcFdnGains_clamp sel t).mpr (.inl hc), by simp,
    by simp only [writeFrame, Machine.recalcFdnGains]⟩

theorem recalcMods (h : WriteEffect s t) : WriteEffect s (recalcMods t) := h.trans ⟨id, rfl, rfl⟩

theorem realloc (h : WriteEffect s t) : WriteEffect s (realloc t) :=
  h.trans ⟨fun hc => (realloc_clamp t).mpr (.inl hc), by simp, by simp only [writeFrame, Machine.realloc]⟩

theorem clearFilters (h : WriteEffect s t) : WriteEffect s (clearFilters t) :=
  h.trans ⟨by simp, by simp, by simp only [writeFrame, Machine.clearFilters]⟩

theorem initProc (h : WriteEffect s t) : WriteEffect s (initProc t) :=
  (h.realloc.recalcLens _).recalcCoefs _ |>.clearFilters.recalcCombs _ |>.recalcFdnGains _ |>.recalcMods

/-- Storing in registers and units, before anything is recomputed. -/
theorem of_eq (hc : t.clamp = s.clamp) (he : t.err = s.err) (h : writeFrame t = writeFrame s) : WriteEffect s t :=
  ⟨(hc ▸ ·), he, h⟩

/-- Replacing all filters at once, as the broadcast writes do. -/
theorem setFilters (fl : Vector Filter 32) (h : WriteEffect s t) : WriteEffect s { t with filters := fl } :=
  h.trans ⟨id, rfl, rfl⟩

theorem setKinds (sel : Fin 32 → Bool) (k : FilterKind) (h : WriteEffect s t) : WriteEffect s (setKinds sel k t) := by
  rw [Machine.setKinds]
  exact recalcCoefs sel (setFilters _ h)

theorem setCutoffs (sel : Fin 32 → Bool) (fc : F32) (h : WriteEffect s t) : WriteEffect s (setCutoffs sel fc t) := by
  rw [Machine.setCutoffs]
  exact recalcCoefs sel (setFilters _ h)

theorem setCoef (f : Fin 32) (upd : F32 → Coefs → Coefs) (v : Word) : WriteEffect s (setCoef f upd v s) :=
  orClamp _ ⟨id, rfl, rfl⟩

theorem writeReg {r : Reg} (hr : r ≠ .status) (v : Word) : WriteEffect s (writeReg r v s) := by
  cases r with
  | status => exact absurd rfl hr
  | fs => exact initProc (orClamp _ (of_eq rfl rfl rfl))
  | x i => exact orClamp _ (of_eq rfl rfl rfl)
  | dlMaxMs l => exact orClamp _ (of_eq rfl rfl rfl)
  | dlLenMs l => exact recalcFdnGains _ (recalcCombs _ (recalcLens _ (orClamp _ (of_eq rfl rfl rfl))))
  | fltKind f =>
    simp only [Machine.writeReg, writeKind]
    split
    exacts [refl s, setKinds _ _ (refl s)]
  | fltFc f => exact setCutoffs _ _ (orClamp _ (refl s))
  | fltP f => exact recalcCoefs _ (orClamp _ (of_eq rfl rfl rfl))
  | fltB0 f | fltB1 f | fltB2 f | fltA1 f | fltA2 f =>
    simp only [Machine.writeReg]
    exact setCoef f _ v
  | cbFb c => exact orClamp _ (of_eq rfl rfl rfl)
  | cbMk c => exact orClamp _ (of_eq rfl rfl rfl)
  | cbDecay b => exact recalcCombs _ (orClamp _ (of_eq rfl rfl rfl))
  | cbSignMode b =>
    simp only [Machine.writeReg, writeSignMode]
    split
    exacts [refl s, recalcCombs _ (of_eq rfl rfl rfl)]
  | cbDampKind b =>
    simp only [Machine.writeReg, writeBankKind]
    split
    exacts [refl s, setKinds _ _ (of_eq rfl rfl rfl)]
  | cbDampFc b => exact setCutoffs _ _ (orClamp _ (of_eq rfl rfl rfl))
  | apG ch => exact orClamp _ (of_eq rfl rfl rfl)
  | apMode ch =>
    simp only [Machine.writeReg, writeApMode]
    split
    exacts [refl s, of_eq rfl rfl rfl]
  | fdnRoom => exact recalcFdnGains _ (recalcLens _ (orClamp _ (of_eq rfl rfl rfl)))
  | fdnDecay => exact recalcFdnGains _ (orClamp _ (of_eq rfl rfl rfl))
  | fdnSpread => exact orClamp _ (of_eq rfl rfl rfl)
  | fdnMixMode =>
    simp only [Machine.writeReg, writeMixMode]
    split
    exacts [refl s, of_eq rfl rfl rfl]
  | fdnModDepth => exact recalcMods (orClamp _ (of_eq rfl rfl rfl))
  | fdnDampKind =>
    simp only [Machine.writeReg, writeFdnKind]
    split
    exacts [refl s, setKinds _ _ (of_eq rfl rfl rfl)]
  | fdnDampFc => exact setCutoffs _ _ (orClamp _ (of_eq rfl rfl rfl))
  | _ => exact of_eq rfl rfl rfl

end WriteEffect

/-- Every register write, to STATUS too, leaves alone what `writeFrame` shows. -/
theorem writeFrame_writeReg (r : Reg) (v : Word) (s : State) : writeFrame (writeReg r v s) = writeFrame s := by
  by_cases hr : r = .status
  · subst hr; rfl
  · exact (WriteEffect.writeReg hr v).rest

/-- No register write touches the error record (R39). -/
theorem record_writeReg (r : Reg) (v : Word) (s : State) :
    (writeReg r v s).cause = s.cause ∧ (writeReg r v s).errWord = s.errWord ∧ (writeReg r v s).errPc = s.errPc :=
  ⟨(congrArg State.cause (writeFrame_writeReg r v s) :), (congrArg State.errWord (writeFrame_writeReg r v s) :),
    (congrArg State.errPc (writeFrame_writeReg r v s) :)⟩

/-! #### The flags and the error record -/

/-- What is sticky about the flags and the record from s to t. -/
def Sticky (s t : State) : Prop :=
  (s.err = true → t.err = true ∧ t.cause = s.cause ∧ t.errWord = s.errWord ∧ t.errPc = s.errPc) ∧
  (s.clamp = true → t.clamp = true)

theorem ProgramEffect.sticky {s t : State} (h : ProgramEffect s t) : Sticky s t := by
  refine ⟨fun hs => ?_, fun hs => (congrArg State.clamp h.rest :).trans hs⟩
  rcases h.record with ⟨he, hrec⟩ | ⟨hf, -⟩
  · exact ⟨he.trans hs, hrec⟩
  · exact absurd (hs.symm.trans hf) nofun

theorem WriteEffect.sticky {s t : State} (h : WriteEffect s t) : Sticky s t :=
  ⟨fun hs => ⟨h.err.trans hs, (congrArg State.cause h.rest :), (congrArg State.errWord h.rest :),
    (congrArg State.errPc h.rest :)⟩, h.clamp⟩

/-- Every command of the host stream but a WREG to STATUS keeps the flags and a frozen record. -/
theorem HostEffect.sticky {i : Instr} {s t : State} (h : HostEffect s i t)
    (hi : ∀ v, i ≠ .wreg (regAddr .status) v) : Sticky s t := by
  cases h with
  | program h => exact h.sticky
  | @write a v r hr _ _ =>
    refine (WriteEffect.writeReg (fun he => ?_) v).sticky
    subst he
    exact hi v (by rw [regAddr_of_regOf hr])
  | respond _ h => exact h.sticky
  | init => exact (WriteEffect.refl s).initProc.sticky
  | store => exact ⟨fun hs => ⟨hs, rfl, rfl, rfl⟩, id⟩
  | frame h => exact h.sticky

/-- Settles O46: a frame program only records errors, and of the host commands only WREG touches the flags otherwise. -/
theorem flagsAndRecordAreSticky : Obligations.FlagsAndRecordAreSticky := by
  intro i s t ht
  cases hp : s.pc with
  | some p =>
    have hpc : s.pc ≠ none := hp ▸ nofun
    obtain ⟨herr, hclamp⟩ := (ProgramEffect.executeInProgram (.inl hpc) (executeInProgram_eq_exec hp i ▸ ht)).sticky
    exact ⟨fun _ => ⟨fun hs => (herr hs).1, hclamp⟩, fun hs => (herr hs).2⟩
  | none =>
    have hi := exec_effect hp ht
    refine ⟨fun hne => ?_, fun hs => ?_⟩
    · obtain ⟨herr, hclamp⟩ := hi.sticky hne
      exact ⟨fun hs => (herr hs).1, hclamp⟩
    · by_cases hst : ∃ v, i = .wreg (regAddr .status) v
      · obtain ⟨v, rfl⟩ := hst
        cases hi with
        | program h => exact (h.sticky.1 hs).2
        | write => exact record_writeReg _ v s
      · exact ((hi.sticky fun v hv => hst ⟨v, hv⟩).1 hs).2

/-! #### Between steps -/

/-- The response words a command of the host stream emits: none, one by RREG, two by FRAME; and it leaves no PC. -/
theorem HostEffect.control {i : Instr} {s t : State} (h : HostEffect s i t) (hp : s.pc = none) :
    t.pc = none ∧ t.rsp.length ≤ s.rsp.length + 2 := by
  cases h with
  | program h => exact ⟨h.pc hp, (congrArg (·.rsp.length) h.rest :).le.trans (Nat.le_add_right _ 2)⟩
  | @write a v r _ _ _ =>
    have hw := writeFrame_writeReg r v s
    exact ⟨(congrArg State.pc hw :).trans hp, (congrArg (·.rsp.length) hw :).le.trans (Nat.le_add_right _ 2)⟩
  | respond w h =>
    have hr : t.rsp = s.rsp ++ [w] := (congrArg State.rsp h.rest :)
    exact ⟨h.pc hp, by simp [hr]⟩
  | init =>
    have hw := (WriteEffect.refl s).initProc.rest
    exact ⟨(congrArg State.pc hw :).trans hp, (congrArg (·.rsp.length) hw :).le.trans (Nat.le_add_right _ 2)⟩
  | store => exact ⟨hp, Nat.le_add_right _ 2⟩
  | @frame l r u h =>
    have hr : u.rsp = s.rsp := (congrArg State.rsp h.rest :)
    exact ⟨rfl, by simp [hr]⟩

/-- The words a failed header emits. -/
theorem emitFailed_control (w : Word) (s : State) :
    (emitFailed w s).pc = s.pc ∧ (emitFailed w s).rsp.length ≤ s.rsp.length + 2 := by
  unfold emitFailed
  split <;> simp

/-- A sequencer that is not stalled has no word behind its queue. -/
theorem rsp_length_of_not_stalled {s : State} (h : stalled s = false) : s.rsp.length ≤ Config.rspDepth := by
  simpa [stalled, heldWords_eq_drop] using h

/-- Settles O59: a step starts with no word behind the queue and emits at most two. -/
theorem everyStepKeepsControlOk : Obligations.EveryStepKeepsControlOk := by
  intro s t hs ht
  rcases step_cases ht with ⟨-, rfl⟩ | ⟨-, ⟨p, hp⟩, -⟩ | ⟨-, -, -, rfl⟩ | ⟨hst, hp, u, hf, rfl⟩ |
    ⟨hst, hp, i, s', u, hf, hu, rfl⟩
  · exact hs
  · exact absurd (hs.1.symm.trans hp) nofun
  · exact hs
  · have hq := rsp_length_of_not_stalled hst
    obtain ⟨k, w, rfl⟩ := fetched_failed hf
    obtain ⟨hpc, hrsp⟩ := emitFailed_control w (recordError k w (consume (commandLength w) s))
    simp only [recordError_pc, recordError_rsp, consume_pc, consume_rsp] at hpc hrsp
    exact ⟨by rw [settle_pc]; exact hpc.trans hp, by rw [settle_rsp]; exact hrsp.trans (Nat.add_le_add_right hq 2)⟩
  · have hq := rsp_length_of_not_stalled hst
    obtain rfl := fetched_run hf
    obtain ⟨hpc, hrsp⟩ := (exec_effect (s := consume i.length s) hp hu).control hp
    exact ⟨by rw [settle_pc]; exact hpc, by rw [settle_rsp]; exact hrsp.trans (Nat.add_le_add_right hq 2)⟩

end Sys2Proof.Machine
end

section
/-! ### Every step keeps every delay buffer well formed (spec/10_state.md R45, spec/20_memory.md R102) -/

namespace Sys2Proof.Machine

open Sys2Proof Sys2Proof.Safety

/-! #### Invariants of the units -/

/-- FS and the units: all that an invariant of the configuration and the delay memory speaks of. -/
def unitsOf (s : State) :
    F32 × Vector Line 44 × Vector Filter 32 × Vector Comb 16 × Vector Bank 2 × Vector Chain 4 × Fdn :=
  (s.fs, s.lines, s.filters, s.combs, s.banks, s.chains, s.fdn)

/-- A property of the units that frame programs, legal register writes and INIT keep. -/
structure KeptByCommands (P : State → Prop) : Prop where
  units : ∀ {s t : State}, P s → unitsOf t = unitsOf s → P t
  program : ∀ {s t : State}, P s → ProgramEffect s t → P t
  write : ∀ {s : State} {r : Reg} {v : Word}, regLegal r v = true → P s → P (writeReg r v s)
  init : ∀ {s : State}, P s → P (initProc s)

namespace KeptByCommands

variable {P : State → Prop} {s t : State}

theorem hostEffect (hP : KeptByCommands P) {i : Instr} (h : HostEffect s i t) (hs : P s) : P t := by
  cases h with
  | program h => exact hP.program hs h
  | write _ _ hlegal => exact hP.write hlegal hs
  | respond w h => exact hP.program (hP.units (t := emit w s) hs rfl) h
  | init => exact hP.init hs
  | store => exact hP.units hs rfl
  | @frame l r u h => exact hP.units (hP.program (hP.units (t := startFrame l r s) hs rfl) h) rfl

theorem completeFrame (hP : KeptByCommands P) (ht : completeFrame s = .next t) (hs : P s) : P t := by
  obtain ⟨u, hu, rfl⟩ := completeFrame_effect ht
  exact hP.units (hP.program hs hu) rfl

theorem failWord (hP : KeptByCommands P) (k : Cause) (w : Word) (hs : P s) : P (failWord k w s) := by
  have hrec : P (recordError k w (consume (commandLength w) s)) :=
    hP.program (hP.units (t := consume (commandLength w) s) hs rfl) (.recordError k w)
  unfold Machine.failWord emitFailed
  split
  · exact hP.units hrec rfl
  · exact hP.units hrec rfl
  · exact hrec

/-- What the commands keep, every step keeps: a FRAME with its whole program, a failed header, or one command. -/
theorem step (hP : KeptByCommands P) (hs : P s) (ht : step s = .next t) : P t := by
  rcases step_cases ht with ⟨-, rfl⟩ | ⟨-, -, u, hu, rfl⟩ | ⟨-, -, -, rfl⟩ | ⟨-, -, u, hf, rfl⟩ |
    ⟨-, hp, i, s', u, hf, hu, rfl⟩
  · exact hs
  · exact hP.program (hP.completeFrame hu hs) .settle
  · exact hs
  · obtain ⟨k, w, rfl⟩ := fetched_failed hf
    exact hP.program (hP.failWord k w hs) .settle
  · obtain rfl := fetched_run hf
    have hhost : HostEffect (consume i.length s) i u := exec_effect hp hu
    exact hP.program (hP.hostEffect hhost (hP.units hs rfl)) .settle

end KeptByCommands

/-! #### Buffers -/

/-- What the invariant of a buffer speaks of. -/
def bufferPart (ln : Line) : Nat × Nat × Mem := (ln.cap, ln.wptr, ln.buf)

theorem bufferOk_of_eq {l : Fin 44} {ln ln' : Line} (e : bufferPart ln' = bufferPart ln) (h : BufferOk l ln) :
    BufferOk l ln' := by
  simp only [bufferPart, Prod.mk.injEq] at e
  obtain ⟨hcap, hwptr, hbuf⟩ := e
  simpa only [BufferOk, hcap, hwptr, hbuf] using h

/-- DlWrite stores below the capacity and wraps the cursor (spec/41_delay_line.md R232). -/
theorem bufferOk_dlWrite {l : Fin 44} {ln : Line} (h : BufferOk l ln) (v : F32) : BufferOk l (dlWrite ln v) := by
  obtain ⟨hcap, hphys, hwptr, hwf, hbelow⟩ := h
  exact ⟨hcap, hphys, Nat.mod_lt _ (by omega), memWf_memWrite _ _ hwf, memBelow_memWrite _ hbelow hwptr⟩

theorem bufferOk_writes {l : Fin 44} {ln : Line} (h : BufferOk l ln) (vs : List F32) :
    BufferOk l (vs.foldl dlWrite ln) := by
  induction vs generalizing ln with
  | nil => exact h
  | cons v vs ih => exact ih (bufferOk_dlWrite h v)

theorem two_le_phys (l : Fin 44) : 2 ≤ phys l := by
  unfold phys
  split <;> decide

/-- CAPCALC answers a capacity in [2, PHYS] (R51). -/
theorem capCalc_bounds (fs : F32) (l : Fin 44) (ms : F32) :
    2 ≤ (capCalc fs l ms).1 ∧ (capCalc fs l ms).1 ≤ phys l := by
  have hphys := two_le_phys l
  simp only [capCalc]
  split <;> split <;> omega

/-- Reallocation leaves an empty buffer of a legal capacity (spec/40_sequencer.md R183). -/
theorem bufferOk_realloc (fs : F32) (l : Fin 44) (ln : Line) : BufferOk l (reallocLine fs l ln) := by
  obtain ⟨hlow, hhigh⟩ := capCalc_bounds fs l ln.maxMs
  exact ⟨hlow, hhigh, by simp only [reallocLine]; omega, rfl, rfl⟩

theorem bufferPart_recalcLens (sel : Fin 44 → Bool) (s : State) (l : Fin 44) :
    bufferPart (recalcLens sel s).lines[l] = bufferPart s.lines[l] := by
  rw [recalcLens_line]
  split <;> simp only [bufferPart]

theorem initProc_lines (s : State) : (initProc s).lines = (recalcLens (fun _ => true) (realloc s)).lines := by
  simp only [initProc, recalcMods_lines, recalcFdnGains_lines, recalcCombs_lines, clearFilters_lines,
    recalcCoefs_lines]

theorem bufferOk_recalcLens_realloc (s : State) (l : Fin 44) :
    BufferOk l (recalcLens (fun _ => true) (realloc s)).lines[l] := by
  have hr : BufferOk l (realloc s).lines[l] := by
    rw [realloc_line]
    exact bufferOk_realloc _ _ _
  exact bufferOk_of_eq (bufferPart_recalcLens _ _ l) hr

theorem bufferOk_initProc (s : State) (l : Fin 44) : BufferOk l (initProc s).lines[l] :=
  initProc_lines s ▸ bufferOk_recalcLens_realloc s l

theorem bufferPart_setLine {s : State} {l : Fin 44} {ln : Line} (h : bufferPart ln = bufferPart s.lines[l])
    (k : Fin 44) : bufferPart (setLine l ln s).lines[k] = bufferPart s.lines[k] := by
  rw [setLine_line]
  split
  next hk => exact hk ▸ h
  next => rfl

@[simp] theorem setKinds_lines (sel : Fin 32 → Bool) (k : FilterKind) (s : State) :
    (setKinds sel k s).lines = s.lines := by rw [setKinds, recalcCoefs_lines]

@[simp] theorem setCutoffs_lines (sel : Fin 32 → Bool) (fc : F32) (s : State) :
    (setCutoffs sel fc s).lines = s.lines := by rw [setCutoffs, recalcCoefs_lines]

/-- The registers whose write changes a line: FS reallocates all of them, the others change settings or lengths. -/
theorem writeReg_lines {r : Reg} (v : Word) (s : State) (hfs : r ≠ .fs) (hmax : ∀ l, r ≠ .dlMaxMs l)
    (hlen : ∀ l, r ≠ .dlLenMs l) (hroom : r ≠ .fdnRoom) : (writeReg r v s).lines = s.lines := by
  cases r
  case fs => exact absurd rfl hfs
  case dlMaxMs l => exact absurd rfl (hmax l)
  case dlLenMs l => exact absurd rfl (hlen l)
  case fdnRoom => exact absurd rfl hroom
  case fltKind | cbSignMode | cbDampKind | apMode | fdnMixMode | fdnDampKind =>
    simp only [writeReg, writeKind, writeSignMode, writeBankKind, writeApMode, writeMixMode, writeFdnKind]
    split <;> simp
  case fltFc | cbDampFc | fdnDampFc => simp [writeReg, writeFc, writeBankFc, writeFdnFc]
  case fltP | cbDecay | fdnDecay => simp [writeReg, writeP, writeDecay, writeFdnDecay]
  all_goals rfl

/-- No register write but one to FS touches a buffer. -/
theorem bufferPart_writeReg {r : Reg} (v : Word) (s : State) (hfs : r ≠ .fs) (k : Fin 44) :
    bufferPart (writeReg r v s).lines[k] = bufferPart s.lines[k] := by
  cases r
  case dlMaxMs l =>
    rw [writeReg, writeMaxMs, orClamp_lines, bufferPart_setLine]
    rfl
  case dlLenMs l =>
    rw [writeReg, writeLenMs, recalcFdnGains_lines, recalcCombs_lines, bufferPart_recalcLens, orClamp_lines,
      bufferPart_setLine]
    rfl
  case fdnRoom =>
    rw [writeReg, writeRoom, recalcFdnGains_lines, bufferPart_recalcLens]
    rfl
  all_goals rw [writeReg_lines v s hfs nofun nofun nofun]

/-- The buffers are kept by a program's writes at their cursors, by INIT's reallocation, and untouched otherwise. -/
theorem buffersOk_kept : KeptByCommands BuffersOk where
  units hs e := by
    simp only [unitsOf, Prod.mk.injEq] at e
    simpa only [BuffersOk, e.2.1] using hs
  program hs h l := by
    obtain ⟨vs, hv⟩ := h.line l
    exact hv ▸ bufferOk_writes (hs l) vs
  write {s r v} _ hs l := by
    by_cases hr : r = .fs
    · subst hr; exact bufferOk_initProc _ l
    · exact bufferOk_of_eq (bufferPart_writeReg v s hr l) (hs l)
  init _ := bufferOk_initProc _

/-- Settles O56. -/
theorem everyStepKeepsBuffersOk : Obligations.EveryStepKeepsBuffersOk :=
  fun _ _ hs ht => buffersOk_kept.step hs ht

end Sys2Proof.Machine
end

section
/-! ### Binary32: negation, infinities, and operators that answer a number (spec/00_scope.md R9) -/

namespace Sys2Proof.F32

open Sys2Proof Sys2Proof.Safety

/-! #### Negation -/

theorem expo_neg (v : F32) : expo (neg v) = expo v := by
  simp [expo, neg, BitVec.extractLsb'_xor]

theorem frac_neg (v : F32) : frac (neg v) = frac v := by
  simp [frac, neg, BitVec.extractLsb'_xor]

theorem isNeg_neg (v : F32) : isNeg (neg v) = !isNeg v := by
  have hbit : (0x80000000#32).msb = true := by decide
  simp [isNeg, neg, hbit]

theorem isNaN_neg (v : F32) : isNaN (neg v) = isNaN v := by rw [isNaN, isNaN, expo_neg, frac_neg]

theorem val_neg (v : F32) : val (neg v) = -val v := by
  rw [val, val, isNeg_neg, mag, mag, expo_neg, frac_neg]
  cases isNeg v <;> simp

/-! #### Finite values and infinities -/

theorem natAbs_val (v : F32) : (val v).natAbs = mag v := natAbs_signed _ _

/-- The magnitude of a finite value is below that of an infinity. -/
theorem mag_lt_of_isFinite {v : F32} (h : isFinite v = true) : mag v < 2 ^ 23 * 2 ^ 254 := by
  have he : expo v ≤ 254 := by
    have hlt : expo v < 256 := (v.extractLsb' 23 8).isLt
    have hne : expo v ≠ 255 := by simpa [isFinite] using h
    omega
  have hf := frac_lt v
  rw [mag]
  split
  · exact hf.trans (by decide)
  · calc (2 ^ 23 + frac v) * 2 ^ (expo v - 1) ≤ (2 ^ 24 - 1) * 2 ^ 253 :=
        Nat.mul_le_mul (by omega) (Nat.pow_le_pow_right (by decide) (by omega))
      _ < 2 ^ 23 * 2 ^ 254 := by decide

theorem mag_of_isInf {v : F32} (h : isInf v = true) : mag v = 2 ^ 23 * 2 ^ 254 := by
  obtain ⟨he, hf⟩ : expo v = 255 ∧ frac v = 0 := by simpa [isInf] using h
  rw [mag, he, hf]
  decide

/-- A number between finite bounds is finite. -/
theorem isFinite_of_inRange {lo hi v : F32} (hlo : isFinite lo = true) (hhi : isFinite hi = true)
    (h : InRange lo hi v) : isFinite v = true := by
  obtain ⟨hv, hvlo, hvhi⟩ := h
  refine isFinite_of_not hv (Bool.eq_false_iff.mpr fun hinf => ?_)
  have hmag := (natAbs_val v).trans (mag_of_isInf hinf)
  have hmlo := (natAbs_val lo).trans_lt (mag_lt_of_isFinite hlo)
  have hmhi := (natAbs_val hi).trans_lt (mag_lt_of_isFinite hhi)
  have hle := (lt_eq_false_iff hv (isNaN_of_isFinite hlo)).mp hvlo
  have hge := (lt_eq_false_iff (isNaN_of_isFinite hhi) hv).mp hvhi
  omega

/-- A number above a positive one is not zero. -/
theorem isZero_of_ge {lo v : F32} (hlo : isNaN lo = false) (hpos : 0 < val lo) (hv : isNaN v = false)
    (h : lt v lo = false) : isZero v = false := by
  have hle := (lt_eq_false_iff hv hlo).mp h
  refine Bool.eq_false_iff.mpr fun hz => ?_
  obtain ⟨he, hf⟩ : expo v = 0 ∧ frac v = 0 := by simpa [isZero] using hz
  have hmag : (val v).natAbs = 0 := by rw [natAbs_val, mag, if_pos he, hf]
  omega

/-! #### Results that are numbers -/

theorem roundMag_le (n d : Nat) : roundMag n d ≤ 0x7F800000 := Nat.min_le_right _ _

/-- A pattern up to that of the infinity is no NaN. -/
theorem isNaN_pack {bits : Nat} (h : bits ≤ 0x7F800000) (neg : Bool) : isNaN (pack neg bits) = false := by
  rw [isNaN, expo_pack (by omega), frac_pack (by omega)]
  rcases Nat.lt_or_ge bits 0x7F800000 with hlt | hge
  · have he : bits / 2 ^ 23 ≠ 255 := by omega
    rw [beq_false_of_ne he, Bool.false_and]
  · obtain rfl : bits = 0x7F800000 := by omega
    rfl

theorem isNaN_add {a b : F32} (ha : isFinite a = true) (hb : isFinite b = true) : isNaN (add a b) = false := by
  rw [add_of_isFinite ha hb]
  split
  · exact isNaN_pack (Nat.zero_le _) _
  · exact isNaN_pack (roundMag_le _ _) _

theorem isNaN_mul {a b : F32} (ha : isFinite a = true) (hb : isFinite b = true) : isNaN (mul a b) = false := by
  rw [mul_of_isFinite ha hb]
  exact isNaN_pack (roundMag_le _ _) _

theorem isZero_of_isInf {a : F32} (h : isInf a = true) : isZero a = false := by
  obtain ⟨he, -⟩ : expo a = 255 ∧ frac a = 0 := by simpa [isInf] using h
  simp [isZero, he]

/-- A number times a finite value that is not zero is a number. -/
theorem isNaN_mul_of_ne_zero {a b : F32} (ha : isNaN a = false) (hb : isFinite b = true) (hz : isZero b = false) :
    isNaN (mul a b) = false := by
  cases hi : isInf a with
  | false => exact isNaN_mul (isFinite_of_not ha hi) hb
  | true =>
    rw [mul, ha, isNaN_of_isFinite hb, hi, isZero_of_isInf hi, hz]
    exact isNaN_pack le_rfl _

/-- A number divided by a finite value that is not zero is a number. -/
theorem isNaN_div {a b : F32} (ha : isNaN a = false) (hb : isFinite b = true) (hz : isZero b = false) :
    isNaN (div a b) = false := by
  cases hi : isInf a with
  | false =>
    rw [div_of_isFinite (isFinite_of_not ha hi) hb hz]
    exact isNaN_pack (roundMag_le _ _) _
  | true =>
    rw [div, ha, isNaN_of_isFinite hb, hi, isInf_of_isFinite hb]
    exact isNaN_pack le_rfl _

/-- f32(n) is a number, and at least 1.0 for n at least 1: 1.0 itself is nearer to n than anything below it. -/
theorem one_le_ofNat {n : Nat} (hn : 1 ≤ n) : isNaN (ofNat n) = false ∧ lt (ofNat n) one = false := by
  have hnum : isNaN (ofNat n) = false := isNaN_pack (roundMag_le _ _) _
  refine ⟨hnum, (lt_eq_false_iff hnum (by decide)).mpr ?_⟩
  have hone : val one = 2 ^ 149 := by decide
  have hnear : NearestEven (signed false (n * 2 ^ 149)) 1 (ofNat n) := nearestEven_pack false _ one_pos
  have hs : signed false (n * 2 ^ 149) = (n : Int) * 2 ^ 149 := by simp [signed]
  rw [hs] at hnear
  unfold NearestEven at hnear
  split at hnear
  case isTrue h =>
    rw [hnear, decide_eq_false (by omega), hone]
    decide
  case isFalse h =>
    obtain ⟨hle, -⟩ := hnear.2 one (by decide)
    rw [hone] at hle ⊢
    omega

/-- A number limited to [1.0, top]. -/
theorem inRange_limit {top s : F32} (htop : isNaN top = false) (hone : lt top one = false) (hs : isNaN s = false) :
    InRange one top (if lt (if lt top s then top else s) one then one else if lt top s then top else s) := by
  have hlow : isNaN one = false := by decide
  cases hhigh : lt top s with
  | true => simp only [if_true, hone]; exact ⟨htop, hone, lt_irrefl top⟩
  | false =>
    cases hsl : lt s one with
    | true => simp only [hsl, if_true, Bool.false_eq_true, if_false]; exact ⟨hlow, lt_irrefl one, hone⟩
    | false => simp only [hsl, Bool.false_eq_true, if_false]; exact ⟨hs, hsl, hhigh⟩

end Sys2Proof.F32
end

section
/-! ### Every step keeps the settings in their ranges and the lengths within their lines
(spec/10_state.md R41 to R78, R45, spec/43_comb.md R300 to R302) -/

namespace Sys2Proof.Machine

open Sys2Proof Sys2Proof.Safety

/-! #### What the derivations answer -/

/-- A comparison is turned round by negating both sides. -/
theorem lt_neg_neg (a b : F32) : F32.lt (F32.neg a) (F32.neg b) = F32.lt b a := by
  rw [F32.lt, F32.lt, F32.isNaN_neg, F32.isNaN_neg, F32.val_neg, F32.val_neg, Bool.and_comm (!F32.isNaN a)]
  congr 2
  simp

/-- The cap of the decay law (R300). -/
theorem decayMag_le (fs len decay : F32) : F32.lt F32.gmax (decayMag fs len decay).1 = false := by
  simp only [decayMag]
  split
  · exact F32.lt_irrefl _
  next h => exact Bool.eq_false_of_not_eq_true h

/-- CBGAIN answers a gain within the bound of its unit's sign (R302). -/
theorem combGainOk_combGain (fs len : F32) (bank : Bank) (k : Fin 8) :
    CombGainOk bank k (combGain fs len bank k).1 := by
  have hm := decayMag_le fs len bank.decay
  have hneg : F32.negGmax = F32.neg F32.gmax := by decide
  simp only [CombGainOk, combGain]
  split
  · rw [hneg, lt_neg_neg]; exact hm
  · exact hm

theorem isFinite_stereoSpreadMs : F32.isFinite stereoSpreadMs = true := F32.isFinite_sanitise _

/-- The milliseconds LENCALC starts from are a number (R50). -/
theorem isNaN_effectiveMs {room lenMs : F32} (hroom : F32.isFinite room = true) (hms : F32.isFinite lenMs = true)
    (l : Fin 44) : F32.isNaN (effectiveMs room l lenMs) = false := by
  unfold effectiveMs
  split
  · exact F32.isNaN_mul hms hroom
  · split
    · exact F32.isNaN_add hms isFinite_stereoSpreadMs
    · exact F32.isNaN_of_isFinite hms

/-- LENCALC answers a length in [1.0, DL_CAP - 1] (R50): no operator of it gives a NaN, and DL_CAP - 1 is at least 1. -/
theorem inRange_lenCalc {fs room lenMs : F32} {cap : Nat} (l : Fin 44) (hfs : InRange F32.c8000 F32.c192000 fs)
    (hroom : InRange F32.zero F32.one room) (hms : InRange F32.zero F32.c100000 lenMs) (hcap : 2 ≤ cap) :
    InRange F32.one (F32.ofNat (cap - 1)) (lenCalc fs room l lenMs cap).1 := by
  have hfsFin := F32.isFinite_of_inRange (by decide) (by decide) hfs
  have hfsPos : F32.isZero fs = false := F32.isZero_of_ge (lo := F32.c8000) (by decide) (by decide) hfs.1 hfs.2.1
  have hroomFin := F32.isFinite_of_inRange (by decide) (by decide) hroom
  have hmsFin := F32.isFinite_of_inRange (by decide) (by decide) hms
  obtain ⟨htop, hone⟩ := F32.one_le_ofNat (n := cap - 1) (by omega)
  have hprod := F32.isNaN_mul_of_ne_zero (isNaN_effectiveMs hroomFin hmsFin l) hfsFin hfsPos
  exact F32.inRange_limit htop hone (F32.isNaN_div hprod (by decide) (by decide))

/-! #### The invariant, unit by unit -/

/-- A line's settings are in range, and its length is within its capacity. -/
abbrev LineOk (ln : Line) : Prop :=
  InRange F32.zero F32.c100000 ln.maxMs ∧ InRange F32.zero F32.c100000 ln.lenMs ∧ 2 ≤ ln.cap ∧
    InRange F32.one (F32.ofNat (ln.cap - 1)) ln.len

/-- A filter's parameters are in range. -/
abbrev FilterOk (f : Filter) : Prop := InRange F32.c20 F32.c20000 f.fc ∧ InRange F32.zero F32.one f.p

/-- A bank's settings are in range. -/
abbrev BankOk (bk : Bank) : Prop := InRange F32.c0_01 F32.c1000 bk.decay ∧ InRange F32.c20 F32.c20000 bk.dampFc

/-- The FDN's settings are in range, and no gain is above GMAX. -/
structure FdnOk (n : Fdn) : Prop where
  room : InRange F32.zero F32.one n.room
  roomSel : n.roomSel = 0#6
  decay : InRange F32.c0_01 F32.c1000 n.decay
  spread : InRange F32.zero F32.one n.spread
  modDepth : InRange F32.zero F32.one n.modDepth
  dampFc : InRange F32.c20 F32.c20000 n.dampFc
  g : ∀ i : Fin 8, F32.lt F32.gmax n.g[i] = false

/-- `RangesOk` and `LengthsOk`, and the lower bound of the capacities that the lengths rest on. -/
structure SettingsOk (s : State) : Prop where
  fs : InRange F32.c8000 F32.c192000 s.fs
  line : ∀ l : Fin 44, LineOk s.lines[l]
  filter : ∀ f : Fin 32, FilterOk s.filters[f]
  comb : ∀ c : Fin 16, F32.isFinite s.combs[c].makeup = true ∧ CombGainOk s.banks[bankOf c] (posOf c) s.combs[c].fb
  bank : ∀ b : Fin 2, BankOk s.banks[b]
  chain : ∀ ch : Fin 4, InRange F32.negGmax F32.gmax s.chains[ch].g
  fdn : FdnOk s.fdn

theorem settingsOk_of {s : State} (hcap : ∀ l : Fin 44, 2 ≤ s.lines[l].cap) (hr : RangesOk s) (hlen : LengthsOk s) :
    SettingsOk s := by
  obtain ⟨hfs, hline, hfilter, hcomb, hbank, hchain, hroom, hsel, hdecay, hspread, hdepth, hfc, hg⟩ := hr
  exact ⟨hfs, fun l => ⟨(hline l).1, (hline l).2, hcap l, hlen l⟩, hfilter, hcomb, hbank, hchain,
    ⟨hroom, hsel, hdecay, hspread, hdepth, hfc, hg⟩⟩

theorem SettingsOk.ranges_lengths {s : State} (h : SettingsOk s) : RangesOk s ∧ LengthsOk s :=
  ⟨⟨h.fs, fun l => ⟨(h.line l).1, (h.line l).2.1⟩, h.filter, h.comb, h.bank, h.chain, h.fdn.room, h.fdn.roomSel,
    h.fdn.decay, h.fdn.spread, h.fdn.modDepth, h.fdn.dampFc, h.fdn.g⟩, fun l => (h.line l).2.2.2⟩

/-! #### What a store leaves of a unit -/

theorem getElem_set_fin {α : Type} {n : Nat} (xs : Vector α n) (i k : Fin n) (a : α) :
    (xs.set i a)[k] = if i = k then a else xs[k] := by
  simp [Fin.getElem_fin, Vector.getElem_set, Fin.ext_iff]

/-- The gains are all of the FDN that FDNGAIN changes. -/
theorem recalcFdnGains_fdn (sel : Fin 8 → Bool) (s : State) :
    (recalcFdnGains sel s).fdn = { s.fdn with g := (recalcFdnGains sel s).fdn.g } := by simp only [recalcFdnGains]

theorem recalcMods_fdn (s : State) :
    (recalcMods s).fdn = { s.fdn with mods := modCalc s.fs s.fdn.modDepth } := by simp only [recalcMods]

/-- Writes at the cursor change the buffer and the cursor of a line only. -/
theorem writes_settings (vs : List F32) (ln : Line) :
    (vs.foldl dlWrite ln).maxMs = ln.maxMs ∧ (vs.foldl dlWrite ln).lenMs = ln.lenMs ∧
    (vs.foldl dlWrite ln).cap = ln.cap ∧ (vs.foldl dlWrite ln).len = ln.len := by
  induction vs generalizing ln with
  | nil => exact ⟨rfl, rfl, rfl, rfl⟩
  | cons v vs ih => exact ih (dlWrite ln v)

/-- What a write to a register with a range stores is in the range (R37). -/
theorem inRange_rangeWrite {lo hi : F32} (v : Word)
    (h : F32.isNaN lo = false ∧ F32.isNaN hi = false ∧ F32.lt hi lo = false) :
    InRange lo hi (rangeWrite v lo hi).1 := F32.inRange_clampR v h.1 h.2.1 h.2.2

namespace SettingsOk

variable {s t : State}

/-- What touches neither FS nor a unit keeps the invariant. -/
theorem of_eq (h : SettingsOk s) (e : unitsOf t = unitsOf s) : SettingsOk t := by
  simp only [unitsOf, Prod.mk.injEq] at e
  obtain ⟨hfs, hl, hf, hc, hb, hch, hn⟩ := e
  exact ⟨hfs ▸ h.fs, hl ▸ h.line, hf ▸ h.filter, hc ▸ hb ▸ h.comb, hb ▸ h.bank, hch ▸ h.chain, hn ▸ h.fdn⟩

/-! #### Storing in one unit -/

theorem orClamp {b : Bool} (h : SettingsOk s) : SettingsOk (orClamp b s) := h.of_eq rfl

theorem setFs {v : F32} (h : SettingsOk s) (hv : InRange F32.c8000 F32.c192000 v) : SettingsOk { s with fs := v } :=
  ⟨hv, h.line, h.filter, h.comb, h.bank, h.chain, h.fdn⟩

theorem setLine {l : Fin 44} {ln : Line} (h : SettingsOk s) (hl : LineOk ln) : SettingsOk (setLine l ln s) := by
  refine ⟨h.fs, fun k => ?_, h.filter, h.comb, h.bank, h.chain, h.fdn⟩
  rw [setLine_line]
  split
  exacts [hl, h.line k]

theorem setFilters {fl : Vector Filter 32} (h : SettingsOk s) (hf : ∀ f : Fin 32, FilterOk fl[f]) :
    SettingsOk { s with filters := fl } := ⟨h.fs, h.line, hf, h.comb, h.bank, h.chain, h.fdn⟩

theorem setFilter {f : Fin 32} {fl : Filter} (h : SettingsOk s) (hf : FilterOk fl) : SettingsOk (setFilter f fl s) := by
  refine setFilters h fun g => ?_
  rw [getElem_set_fin]
  split
  exacts [hf, h.filter g]

theorem setComb {c : Fin 16} {cb : Comb} (h : SettingsOk s) (hm : F32.isFinite cb.makeup = true)
    (hg : CombGainOk s.banks[bankOf c] (posOf c) cb.fb) : SettingsOk { s with combs := s.combs.set c cb } := by
  refine ⟨h.fs, h.line, h.filter, fun d => ?_, h.bank, h.chain, h.fdn⟩
  rw [getElem_set_fin]
  split
  next hd => subst hd; exact ⟨hm, hg⟩
  next => exact h.comb d

theorem bank_setBank {b : Fin 2} {bk : Bank} (h : SettingsOk s) (hbk : BankOk bk) (k : Fin 2) :
    BankOk (setBank b bk s).banks[k] := by
  rw [setBank_banks, getElem_set_fin]
  split
  exacts [hbk, h.bank k]

/-- A bank's new settings keep the bounds of its gains when its sign mode stays. -/
theorem setBank {b : Fin 2} {bk : Bank} (h : SettingsOk s) (hbk : BankOk bk)
    (hsign : bk.signMode = s.banks[b].signMode) : SettingsOk (setBank b bk s) := by
  refine ⟨h.fs, h.line, h.filter, fun c => ⟨(h.comb c).1, ?_⟩, h.bank_setBank hbk, h.chain, h.fdn⟩
  have hc := (h.comb c).2
  rw [setBank_banks, getElem_set_fin, setBank_combs]
  split
  next hb => subst hb; simpa only [CombGainOk, hsign] using hc
  next => exact hc

theorem setChain {ch : Fin 4} {cn : Chain} (h : SettingsOk s) (hg : InRange F32.negGmax F32.gmax cn.g) :
    SettingsOk { s with chains := s.chains.set ch cn } := by
  refine ⟨h.fs, h.line, h.filter, h.comb, h.bank, fun k => ?_, h.fdn⟩
  rw [getElem_set_fin]
  split
  exacts [hg, h.chain k]

theorem setFdn {n : Fdn} (h : SettingsOk s) (hn : FdnOk n) : SettingsOk { s with fdn := n } :=
  ⟨h.fs, h.line, h.filter, h.comb, h.bank, h.chain, hn⟩

/-! #### Recomputing -/

theorem lineOk_lenOf (h : SettingsOk s) (l : Fin 44) : LineOk { s.lines[l] with len := (lenOf s l).1 } := by
  obtain ⟨hmax, hms, hcap, -⟩ := h.line l
  exact ⟨hmax, hms, hcap, inRange_lenCalc l h.fs h.fdn.room hms hcap⟩

theorem recalcLens {sel : Fin 44 → Bool} (h : SettingsOk s) : SettingsOk (recalcLens sel s) := by
  refine ⟨by simpa using h.fs, fun l => ?_, by simpa using h.filter, by simpa using h.comb, by simpa using h.bank,
    by simpa using h.chain, by simpa using h.fdn⟩
  rw [recalcLens_line]
  split
  exacts [h.lineOk_lenOf l, h.line l]

theorem recalcCoefs {sel : Fin 32 → Bool} (h : SettingsOk s) : SettingsOk (recalcCoefs sel s) := by
  refine ⟨by simpa using h.fs, by simpa using h.line, fun f => ?_, by simpa using h.comb, by simpa using h.bank,
    by simpa using h.chain, by simpa using h.fdn⟩
  rw [recalcCoefs_filter]
  split <;> exact h.filter f

theorem clearFilters (h : SettingsOk s) : SettingsOk (clearFilters s) := by
  refine ⟨by simpa using h.fs, by simpa using h.line, fun f => ?_, by simpa using h.comb, by simpa using h.bank,
    by simpa using h.chain, by simpa using h.fdn⟩
  rw [clearFilters_filter]
  exact h.filter f

/-- A bank may change its sign mode when the gains of all its units are recomputed after it. -/
theorem recalcCombs_bank {sel : Fin 16 → Bool} {b : Fin 2} {bk : Bank} (h : SettingsOk s) (hbk : BankOk bk)
    (hsel : ∀ c, bankOf c = b → sel c = true) : SettingsOk (recalcCombs sel (Machine.setBank b bk s)) := by
  refine ⟨by simpa using h.fs, by simpa using h.line, by simpa using h.filter, fun c => ?_, fun k => ?_,
    by simpa using h.chain, by simpa using h.fdn⟩
  · rw [recalcCombs_comb, recalcCombs_banks]
    split
    next => exact ⟨(h.comb c).1, combGainOk_combGain _ _ _ _⟩
    next hc =>
      rw [setBank_banks, getElem_set_fin, if_neg fun hb => hc (hsel c hb.symm)]
      exact h.comb c
  · rw [recalcCombs_banks]
    exact h.bank_setBank hbk k

theorem recalcCombs {sel : Fin 16 → Bool} (h : SettingsOk s) : SettingsOk (recalcCombs sel s) := by
  refine ⟨by simpa using h.fs, by simpa using h.line, by simpa using h.filter, fun c => ?_, by simpa using h.bank,
    by simpa using h.chain, by simpa using h.fdn⟩
  rw [recalcCombs_comb, recalcCombs_banks]
  split
  exacts [⟨(h.comb c).1, combGainOk_combGain _ _ _ _⟩, h.comb c]

theorem recalcFdnGains {sel : Fin 8 → Bool} (h : SettingsOk s) : SettingsOk (recalcFdnGains sel s) := by
  refine ⟨by simpa using h.fs, by simpa using h.line, by simpa using h.filter, by simpa using h.comb,
    by simpa using h.bank, by simpa using h.chain, ?_⟩
  rw [recalcFdnGains_fdn]
  refine { h.fdn with g := fun i => ?_ }
  rw [recalcFdnGains_gain]
  split
  exacts [decayMag_le _ _ _, h.fdn.g i]

theorem recalcMods (h : SettingsOk s) : SettingsOk (recalcMods s) := by
  refine ⟨by simpa using h.fs, by simpa using h.line, by simpa using h.filter, by simpa using h.comb,
    by simpa using h.bank, by simpa using h.chain, ?_⟩
  rw [recalcMods_fdn]
  exact { h.fdn with }

/-- Reallocated lines have legal capacities, and LENCALC then gives each a length within its own. -/
theorem recalcLens_realloc (h : SettingsOk s) :
    SettingsOk (Machine.recalcLens (fun _ => true) (Machine.realloc s)) := by
  refine ⟨by simpa using h.fs, fun l => ?_, by simpa using h.filter, by simpa using h.comb, by simpa using h.bank,
    by simpa using h.chain, by simpa using h.fdn⟩
  obtain ⟨hmax, hms, -, -⟩ := h.line l
  have hcap := (capCalc_bounds s.fs l s.lines[l].maxMs).1
  rw [recalcLens_line, if_pos rfl, lenOf, realloc_line, realloc_fs, realloc_fdn]
  exact ⟨hmax, hms, hcap, inRange_lenCalc l h.fs h.fdn.room hms hcap⟩

theorem initProc (h : SettingsOk s) : SettingsOk (initProc s) :=
  h.recalcLens_realloc.recalcCoefs.clearFilters.recalcCombs.recalcFdnGains.recalcMods

/-! #### Register writes -/

theorem setKinds {sel : Fin 32 → Bool} {k : FilterKind} (h : SettingsOk s) : SettingsOk (setKinds sel k s) := by
  refine recalcCoefs (setFilters h fun f => ?_)
  rw [Fin.getElem_fin, Vector.getElem_ofFn]
  split <;> exact h.filter f

theorem setCutoffs {sel : Fin 32 → Bool} {v : Word} (h : SettingsOk s) :
    SettingsOk (setCutoffs sel (rangeWrite v F32.c20 F32.c20000).1 s) := by
  refine recalcCoefs (setFilters h fun f => ?_)
  rw [Fin.getElem_fin, Vector.getElem_ofFn]
  split
  exacts [⟨inRange_rangeWrite v (by decide), (h.filter f).2⟩, h.filter f]

theorem setCoef {f : Fin 32} {upd : F32 → Coefs → Coefs} {v : Word} (h : SettingsOk s) :
    SettingsOk (setCoef f upd v s) := orClamp (setFilter h (h.filter f))

theorem writeFs {v : Word} (h : SettingsOk s) : SettingsOk (writeFs v s) :=
  initProc (orClamp (h.setFs (inRange_rangeWrite v (by decide))))

theorem writeMaxMs {l : Fin 44} {v : Word} (h : SettingsOk s) : SettingsOk (writeMaxMs l v s) :=
  orClamp (h.setLine ⟨inRange_rangeWrite v (by decide), (h.line l).2⟩)

theorem writeLenMs {l : Fin 44} {v : Word} (h : SettingsOk s) : SettingsOk (writeLenMs l v s) :=
  recalcFdnGains (recalcCombs (recalcLens (orClamp
    (h.setLine ⟨(h.line l).1, inRange_rangeWrite v (by decide), (h.line l).2.2⟩))))

theorem writeKind {f : Fin 32} {v : Word} (h : SettingsOk s) : SettingsOk (writeKind f v s) := by
  unfold Machine.writeKind
  split
  exacts [h, h.setKinds]

theorem writeFc {f : Fin 32} {v : Word} (h : SettingsOk s) : SettingsOk (writeFc f v s) := setCutoffs (orClamp h)

theorem writeP {f : Fin 32} {v : Word} (h : SettingsOk s) : SettingsOk (writeP f v s) :=
  recalcCoefs (orClamp (h.setFilter ⟨(h.filter f).1, inRange_rangeWrite v (by decide)⟩))

/-- Both bounds hold of a written gain, so the one of the unit's sign does (R61). -/
theorem writeFb {c : Fin 16} {v : Word} (h : SettingsOk s) : SettingsOk (writeFb c v s) := by
  obtain ⟨-, hlow, hhigh⟩ := inRange_rangeWrite (lo := F32.negGmax) (hi := F32.gmax) v (by decide)
  refine orClamp (h.setComb (h.comb c).1 ?_)
  unfold CombGainOk
  split
  exacts [hlow, hhigh]

theorem writeMk {c : Fin 16} {v : Word} (h : SettingsOk s) : SettingsOk (writeMk c v s) :=
  orClamp (h.setComb (F32.isFinite_sanitise v) (h.comb c).2)

theorem writeDecay {b : Fin 2} {v : Word} (h : SettingsOk s) : SettingsOk (writeDecay b v s) :=
  recalcCombs (orClamp (h.setBank ⟨inRange_rangeWrite v (by decide), (h.bank b).2⟩ rfl))

/-- A new sign mode turns the bounds of the bank's gains, and all of them are recomputed. -/
theorem writeSignMode {b : Fin 2} {v : Word} (h : SettingsOk s) : SettingsOk (writeSignMode b v s) := by
  unfold Machine.writeSignMode
  split
  exacts [h, h.recalcCombs_bank (h.bank b) fun c hc => decide_eq_true hc]

theorem writeBankKind {b : Fin 2} {v : Word} (h : SettingsOk s) : SettingsOk (writeBankKind b v s) := by
  unfold Machine.writeBankKind
  split
  exacts [h, setKinds (h.setBank (h.bank b) rfl)]

theorem writeBankFc {b : Fin 2} {v : Word} (h : SettingsOk s) : SettingsOk (writeBankFc b v s) :=
  setCutoffs (orClamp (h.setBank ⟨(h.bank b).1, inRange_rangeWrite v (by decide)⟩ rfl))

theorem writeApG {ch : Fin 4} {v : Word} (h : SettingsOk s) : SettingsOk (writeApG ch v s) :=
  orClamp (h.setChain (inRange_rangeWrite v (by decide)))

theorem writeApMode {ch : Fin 4} {v : Word} (h : SettingsOk s) : SettingsOk (writeApMode ch v s) := by
  unfold Machine.writeApMode
  split
  exacts [h, h.setChain (h.chain ch)]

theorem writeRoom {v : Word} (h : SettingsOk s) : SettingsOk (writeRoom v s) :=
  recalcFdnGains (recalcLens (orClamp (h.setFdn { h.fdn with room := inRange_rangeWrite v (by decide) })))

theorem writeFdnDecay {v : Word} (h : SettingsOk s) : SettingsOk (writeFdnDecay v s) :=
  recalcFdnGains (orClamp (h.setFdn { h.fdn with decay := inRange_rangeWrite v (by decide) }))

theorem writeSpread {v : Word} (h : SettingsOk s) : SettingsOk (writeSpread v s) :=
  orClamp (h.setFdn { h.fdn with spread := inRange_rangeWrite v (by decide) })

theorem writeMixMode {v : Word} (h : SettingsOk s) : SettingsOk (writeMixMode v s) := by
  unfold Machine.writeMixMode
  split
  exacts [h, h.setFdn { h.fdn with }]

theorem writeModDepth {v : Word} (h : SettingsOk s) : SettingsOk (writeModDepth v s) :=
  recalcMods (orClamp (h.setFdn { h.fdn with modDepth := inRange_rangeWrite v (by decide) }))

theorem writeFdnKind {v : Word} (h : SettingsOk s) : SettingsOk (writeFdnKind v s) := by
  unfold Machine.writeFdnKind
  split
  exacts [h, setKinds (h.setFdn { h.fdn with })]

theorem writeFdnFc {v : Word} (h : SettingsOk s) : SettingsOk (writeFdnFc v s) :=
  setCutoffs (orClamp (h.setFdn { h.fdn with dampFc := inRange_rangeWrite v (by decide) }))

/-- FDN_ROOMSEL takes 0 only (R72), so the legal set is what keeps it. -/
theorem writeRoomSel {v : Word} (h : SettingsOk s) (hv : regLegal .fdnRoomSel v = true) :
    SettingsOk (writeReg .fdnRoomSel v s) := by
  obtain rfl : v = 0#32 := BitVec.eq_of_toNat_eq (by simpa [regLegal] using hv)
  exact h.setFdn { h.fdn with roomSel := rfl }

theorem writeReg {r : Reg} {v : Word} (h : SettingsOk s) (hv : regLegal r v = true) : SettingsOk (writeReg r v s) := by
  cases r with
  | fs => exact h.writeFs
  | dlMaxMs l => exact h.writeMaxMs
  | dlLenMs l => exact h.writeLenMs
  | fltKind f => exact h.writeKind
  | fltFc f => exact h.writeFc
  | fltP f => exact h.writeP
  | fltB0 f | fltB1 f | fltB2 f | fltA1 f | fltA2 f =>
    simp only [Machine.writeReg]
    exact h.setCoef
  | cbFb c => exact h.writeFb
  | cbMk c => exact h.writeMk
  | cbDecay b => exact h.writeDecay
  | cbSignMode b => exact h.writeSignMode
  | cbDampKind b => exact h.writeBankKind
  | cbDampFc b => exact h.writeBankFc
  | apG ch => exact h.writeApG
  | apMode ch => exact h.writeApMode
  | fdnRoom => exact h.writeRoom
  | fdnRoomSel => exact h.writeRoomSel hv
  | fdnDecay => exact h.writeFdnDecay
  | fdnSpread => exact h.writeSpread
  | fdnMixMode => exact h.writeMixMode
  | fdnModDepth => exact h.writeModDepth
  | fdnDampKind => exact h.writeFdnKind
  | fdnDampFc => exact h.writeFdnFc
  | _ => exact h.of_eq rfl

/-! #### Frame programs -/

/-- A frame program moves samples only: no setting and no length changes. -/
theorem program (h : SettingsOk s) (ht : ProgramEffect s t) : SettingsOk t where
  fs := (congrArg State.fs ht.rest :) ▸ h.fs
  line l := by
    obtain ⟨vs, hvs⟩ := ht.line l
    obtain ⟨hmax, hms, hcap, hlen⟩ := writes_settings vs s.lines[l]
    simpa only [LineOk, hvs, hmax, hms, hcap, hlen] using h.line l
  filter f := by rw [ht.filter f]; exact h.filter f
  comb := (congrArg State.combs ht.rest :) ▸ (congrArg State.banks ht.rest :) ▸ h.comb
  bank := (congrArg State.banks ht.rest :) ▸ h.bank
  chain := (congrArg State.chains ht.rest :) ▸ h.chain
  fdn := (congrArg State.fdn ht.rest :) ▸ h.fdn

end SettingsOk

theorem settingsOk_kept : KeptByCommands SettingsOk := ⟨.of_eq, .program, fun hv h => h.writeReg hv, .initProc⟩

/-- Settles O58: the cap of the decay law bounds the gains, clampR the settings, and LENCALC the lengths. -/
theorem everyStepKeepsRangesAndLengths : Obligations.EveryStepKeepsRangesAndLengths := by
  intro s t ⟨hbuf, hranges, hlengths⟩ ht
  exact (settingsOk_kept.step (settingsOk_of (fun l => (hbuf l).1) hranges hlengths) ht).ranges_lengths

end Sys2Proof.Machine
end

section
/-! ### The write rules of the registers (spec/10_state.md R37 to R78) -/

namespace Sys2Proof.Machine

open Sys2Proof Sys2Proof.Safety

/-! #### WREG of a legal value -/

/-- In the host stream a WREG of a legal value to a register that is not read-only does what its write rule says
(spec/40_sequencer.md R181). -/
theorem exec_wreg (r : Reg) {v : Word} {s : State} (hp : s.pc = none) (hro : regAccess r ≠ .ro)
    (hlegal : regLegal r v = true) : exec (.wreg (regAddr r) v) s = .next (writeReg r v s) := by
  rw [exec, execWreg, hostOnly_host hp, regOf_regAddr]
  simp only [if_neg hro, hlegal, if_true]

@[simp] theorem kindOf_kindCode (k : FilterKind) : kindOf (kindCode k) = some k := by cases k <;> rfl
@[simp] theorem signModeOf_signModeCode (m : SignMode) : signModeOf (signModeCode m) = some m := by cases m <;> rfl
@[simp] theorem apModeOf_apModeCode (m : ApMode) : apModeOf (apModeCode m) = some m := by cases m <;> rfl
@[simp] theorem mixModeOf_mixModeCode (m : MixMode) : mixModeOf (mixModeCode m) = some m := by cases m <;> rfl

theorem regLegal_kindCode (k : FilterKind) : decide ((kindCode k).toNat ≤ 7) = true := by cases k <;> rfl

/-! #### STATUS, CTRL, the sample registers and FS -/

/-- Settles O36. Each is its write rule; FS is INIT at the state with the new rate. -/
theorem writeGlobalRegisters : Obligations.WriteGlobalRegisters := by
  refine ⟨fun v s hp => exec_wreg .status hp nofun rfl, fun v s hp hv => exec_wreg .ctrl hp nofun (decide_eq_true hv),
    fun i v s hp => exec_wreg (.x i) hp nofun rfl, fun v s hp => ?_⟩
  rw [exec_wreg .fs hp nofun rfl, execInit_host]
  exacts [rfl, hp]

/-! #### Recomputing one unit -/

/-- Changing one element of a vector, written as a choice at every index. -/
theorem ofFn_ite_eq_set {α : Type} {n : Nat} (xs : Vector α n) (i : Fin n) (F : Fin n → α) :
    (Vector.ofFn fun k => if decide (k = i) then F k else xs[k]) = xs.set i (F i) := by
  apply Vector.ext
  intro k hk
  rw [Vector.getElem_ofFn, Vector.getElem_set]
  by_cases h : i.val = k
  · subst h; simp
  · simp [h, Fin.ext_iff, Ne.symm h]

theorem any_finRange_eq {n : Nat} (i : Fin n) (p : Fin n → Bool) :
    ((List.finRange n).any fun k => decide (k = i) && p k) = p i := by
  rw [Bool.eq_iff_iff]
  simp [List.any_eq_true]

/-- COEFCALC of one filter that has just been stored. -/
theorem recalcCoefs_one (f : Fin 32) (g : Filter) (s : State) :
    recalcCoefs (fun k => decide (k = f)) (setFilter f g s) =
      { s with
        filters := s.filters.set f { g with co := (coefCalc s.fs g).1 }
        clamp := s.clamp || (coefCalc s.fs g).2 } := by
  have hf : (setFilter f g s).filters[f] = g := by rw [setFilter_filter, if_pos rfl]
  simp only [recalcCoefs, ofFn_ite_eq_set, any_finRange_eq, hf]
  simp [setFilter]

/-- WREG to FLT_KIND, FLT_FC and FLT_P: one filter is stored and recomputed. -/
theorem writeKind_eq (f : Fin 32) (k : FilterKind) (s : State) :
    writeKind f (kindCode k) s =
      recalcCoefs (fun g => decide (g = f)) (setFilter f { s.filters[f] with kind := k } s) := by
  rw [writeKind, kindOf_kindCode]
  simp only [setKinds, ofFn_ite_eq_set]
  rfl

theorem writeFc_eq (f : Fin 32) (v : Word) (s : State) :
    writeFc f v s =
      recalcCoefs (fun g => decide (g = f))
        (setFilter f { s.filters[f] with fc := (rangeWrite v F32.c20 F32.c20000).1 }
          (orClamp (rangeWrite v F32.c20 F32.c20000).2 s)) := by
  simp only [writeFc, setCutoffs, ofFn_ite_eq_set]
  rfl

theorem writeP_eq (f : Fin 32) (v : Word) (s : State) :
    writeP f v s =
      recalcCoefs (fun g => decide (g = f))
        (setFilter f { s.filters[f] with p := (rangeWrite v F32.zero F32.one).1 }
          (orClamp (rangeWrite v F32.zero F32.one).2 s)) := rfl

/-- Settles O38: one filter is stored and recomputed. -/
theorem writeFilterParameters : Obligations.WriteFilterParameters := by
  refine ⟨by decide, fun f k s hp => ?_, fun f v s hp => ?_, fun f v s hp => ?_⟩
  · rw [exec_wreg (.fltKind f) hp nofun (regLegal_kindCode k), writeReg, writeKind_eq, recalcCoefs_one]
  · rw [exec_wreg (.fltFc f) hp nofun rfl, writeReg, writeFc_eq, recalcCoefs_one]
    rfl
  · rw [exec_wreg (.fltP f) hp nofun rfl, writeReg, writeP_eq, recalcCoefs_one]
    rfl

/-! #### RAW coefficients -/

/-- COEFCALC leaves a RAW filter as it is (spec/42_filters.md R267). -/
theorem coefCalc_raw {f : Filter} (h : f.kind = .raw) (fs : F32) : coefCalc fs f = (f.co, false) := by
  rw [coefCalc, h]

/-- What INIT makes of a filter (spec/40_sequencer.md R183). -/
theorem initProc_filter (s : State) (f : Fin 32) :
    (initProc s).filters[f] =
      { s.filters[f] with co := (coefCalc s.fs s.filters[f]).1, s1 := F32.zero, s2 := F32.zero } := by
  simp only [initProc, recalcMods_filters, recalcFdnGains_filters, recalcCombs_filters, clearFilters_filter,
    recalcCoefs_filter, recalcLens_filters, recalcLens_fs, realloc_filters, realloc_fs, if_true]

theorem initProc_filter_raw {s t : State} {f : Fin 32} (e : t.filters = s.filters) (h : s.filters[f].kind = .raw) :
    (initProc t).filters[f].co = s.filters[f].co ∧ (initProc t).filters[f].kind = .raw := by
  rw [initProc_filter, e, coefCalc_raw h]
  exact ⟨rfl, h⟩

/-- A RAW filter whose cutoff or parameter is stored and which is recomputed keeps its coefficients. -/
theorem recalcCoefs_one_raw {f : Fin 32} {old g : Filter} (t : State) (hco : g.co = old.co) (hk : g.kind = old.kind)
    (h : old.kind = .raw) :
    (recalcCoefs (fun k => decide (k = f)) (setFilter f g t)).filters[f].co = old.co ∧
    (recalcCoefs (fun k => decide (k = f)) (setFilter f g t)).filters[f].kind = .raw := by
  rw [recalcCoefs_filter, setFilter_filter, if_pos rfl, if_pos (decide_eq_true rfl), coefCalc_raw (hk.trans h)]
  exact ⟨hco, hk.trans h⟩

/-- Settles O39: COEFCALC leaves a RAW filter as it is, whatever asks for it. -/
theorem rawCoefficientsStand : Obligations.RawCoefficientsStand := by
  refine ⟨fun f v s hp => ?_, fun f v s t i hp hraw hi ht => ?_⟩
  · exact ⟨exec_wreg (.fltB0 f) hp nofun rfl, exec_wreg (.fltB1 f) hp nofun rfl, exec_wreg (.fltB2 f) hp nofun rfl,
      exec_wreg (.fltA1 f) hp nofun rfl, exec_wreg (.fltA2 f) hp nofun rfl⟩
  · rcases hi with rfl | rfl | rfl | rfl
    · rw [execInit_host hp] at ht
      exact Host.Outcome.next.inj ht ▸ initProc_filter_raw rfl hraw
    · rw [exec_wreg .fs hp nofun rfl, writeReg, writeFs] at ht
      obtain rfl := Host.Outcome.next.inj ht
      exact initProc_filter_raw rfl hraw
    · rw [exec_wreg (.fltFc f) hp nofun rfl, writeReg, writeFc_eq] at ht
      obtain rfl := Host.Outcome.next.inj ht
      exact recalcCoefs_one_raw _ rfl rfl hraw
    · rw [exec_wreg (.fltP f) hp nofun rfl, writeReg, writeP_eq] at ht
      obtain rfl := Host.Outcome.next.inj ht
      exact recalcCoefs_one_raw _ rfl rfl hraw

end Sys2Proof.Machine
end

section
/-! ### The write rules that recompute many units (spec/10_state.md R49, R61 to R78) -/

namespace Sys2Proof.Machine

open Sys2Proof Sys2Proof.Safety

/-! #### The damping broadcasts -/

/-- A filter with a stored kind or cutoff and its coefficients recomputed. -/
def recomputed (fs : F32) (g : Filter) : Filter := { g with co := (coefCalc fs g).1 }

/-- Storing in the selected filters and recomputing them, filter by filter. -/
theorem recalcCoefs_ofFn_filter (sel : Fin 32 → Bool) (G : Fin 32 → Filter) (s : State) (f : Fin 32) :
    (recalcCoefs sel { s with filters := Vector.ofFn fun k => if sel k then G k else s.filters[k] }).filters[f] =
      if sel f then recomputed s.fs (G f) else s.filters[f] := by
  rw [recalcCoefs_filter]
  cases h : sel f <;> simp [h, Fin.getElem_fin, recomputed]

theorem recalcCoefs_ofFn_clamp (sel : Fin 32 → Bool) (G : Fin 32 → Filter) (s : State) :
    (recalcCoefs sel { s with filters := Vector.ofFn fun k => if sel k then G k else s.filters[k] }).clamp = true ↔
      s.clamp = true ∨ ∃ f : Fin 32, sel f = true ∧ (coefCalc s.fs (G f)).2 = true := by
  rw [recalcCoefs_clamp]
  refine or_congr_right (exists_congr fun f => and_congr_right fun h => ?_)
  simp [h, Fin.getElem_fin]

/-- The damping filters of a bank are those of its units (spec/00_scope.md R6). -/
theorem dampOfBank_iff : ∀ (b : Fin 2) (f : Fin 32), dampOfBank b f = true ↔ ∃ c, bankOf c = b ∧ f = cbf c := by
  decide

/-- The damping filters of the FDN are those of its lines (spec/00_scope.md R6). -/
theorem dampOfFdn_iff : ∀ f : Fin 32, dampOfFdn f = true ↔ ∃ i, True ∧ f = fdf i := by
  decide

/-- t is s with store done in every filter that unit gives for a member, and each of these is as cmd leaves it alone. -/
def Broadcast {ι : Type} (mine : ι → Prop) (unit : ι → Fin 32) (cmd : Fin 32 → Instr) (s t : State) : Prop :=
  (∀ c u, mine c → exec (cmd (unit c)) s = .next u → t.filters[unit c] = u.filters[unit c]) ∧
  (t.clamp = true ↔ ∃ c u, mine c ∧ exec (cmd (unit c)) s = .next u ∧ u.clamp = true) ∧
  ∀ f : Fin 32, (∀ c, mine c → f ≠ unit c) → t.filters[f] = s.filters[f]

/-- A broadcast does to each filter what the same store to it alone does, and CLAMP gathers what each would set. -/
theorem broadcast_of {ι : Type} {mine : ι → Prop} {unit : ι → Fin 32} {cmd : Fin 32 → Instr} {s t : State}
    {sel : Fin 32 → Bool} {G : Fin 32 → Filter} {u : Fin 32 → State} {clamps : Prop} (hne : ∃ c, mine c)
    (hsel : ∀ f, sel f = true ↔ ∃ c, mine c ∧ f = unit c)
    (htf : ∀ f : Fin 32, t.filters[f] = if sel f then recomputed s.fs (G f) else s.filters[f])
    (htc : t.clamp = true ↔ clamps ∨ ∃ f : Fin 32, sel f = true ∧ (coefCalc s.fs (G f)).2 = true)
    (hu : ∀ f, exec (cmd f) s = .next (u f)) (huf : ∀ f : Fin 32, (u f).filters[f] = recomputed s.fs (G f))
    (huc : ∀ f, (u f).clamp = true ↔ clamps ∨ (coefCalc s.fs (G f)).2 = true) : Broadcast mine unit cmd s t := by
  refine ⟨fun c v hc hv => ?_, ?_, fun f hf => ?_⟩
  · obtain rfl := Host.Outcome.next.inj ((hu _).symm.trans hv)
    rw [huf, htf, if_pos ((hsel _).mpr ⟨c, hc, rfl⟩)]
  · rw [htc]
    constructor
    · rintro (h | ⟨f, hf, h⟩)
      · obtain ⟨c, hc⟩ := hne
        exact ⟨c, _, hc, hu _, (huc _).mpr (.inl h)⟩
      · obtain ⟨c, hc, rfl⟩ := (hsel f).mp hf
        exact ⟨c, _, hc, hu _, (huc _).mpr (.inr h)⟩
    · rintro ⟨c, v, hc, hv, hclamp⟩
      obtain rfl := Host.Outcome.next.inj ((hu _).symm.trans hv)
      exact ((huc _).mp hclamp).imp_right fun h => ⟨_, (hsel _).mpr ⟨c, hc, rfl⟩, h⟩
  · rw [htf, if_neg fun h => ?_]
    obtain ⟨c, hc, rfl⟩ := (hsel f).mp h
    exact hf c hc rfl

theorem broadcast_setKinds {ι : Type} {mine : ι → Prop} {unit : ι → Fin 32} {sel : Fin 32 → Bool} {s s' : State}
    (hne : ∃ c, mine c) (hsel : ∀ f, sel f = true ↔ ∃ c, mine c ∧ f = unit c) (k : FilterKind) (hp : s.pc = none)
    (hfs : s'.fs = s.fs) (hf : s'.filters = s.filters) (hc : s'.clamp = s.clamp) :
    Broadcast mine unit (fun f => .wreg (regAddr (.fltKind f)) (kindCode k)) s (setKinds sel k s') := by
  have hu (f : Fin 32) : exec (.wreg (regAddr (.fltKind f)) (kindCode k)) s =
      .next (setKinds (fun g => decide (g = f)) k s) := by
    rw [exec_wreg (.fltKind f) hp nofun (regLegal_kindCode k), writeReg, writeKind, kindOf_kindCode]
  refine broadcast_of (G := fun f => { s.filters[f] with kind := k }) (clamps := s.clamp = true) hne hsel (fun f => ?_)
    ?_ hu (fun f => ?_) fun f => ?_
  · rw [setKinds, recalcCoefs_ofFn_filter, hfs, hf]
  · rw [setKinds, recalcCoefs_ofFn_clamp, hfs, hf, hc]
  · rw [setKinds, recalcCoefs_ofFn_filter, if_pos (decide_eq_true rfl)]
  · rw [setKinds, recalcCoefs_ofFn_clamp]
    simp

theorem broadcast_setCutoffs {ι : Type} {mine : ι → Prop} {unit : ι → Fin 32} {sel : Fin 32 → Bool} {s s' : State}
    (hne : ∃ c, mine c) (hsel : ∀ f, sel f = true ↔ ∃ c, mine c ∧ f = unit c) (v : Word) (hp : s.pc = none)
    (hfs : s'.fs = s.fs) (hf : s'.filters = s.filters)
    (hc : s'.clamp = (s.clamp || (rangeWrite v F32.c20 F32.c20000).2)) :
    Broadcast mine unit (fun f => .wreg (regAddr (.fltFc f)) v) s
      (setCutoffs sel (rangeWrite v F32.c20 F32.c20000).1 s') := by
  have hu (f : Fin 32) : exec (.wreg (regAddr (.fltFc f)) v) s = .next (writeFc f v s) :=
    exec_wreg (.fltFc f) hp nofun rfl
  refine broadcast_of (G := fun f => { s.filters[f] with fc := (rangeWrite v F32.c20 F32.c20000).1 })
    (clamps := (s.clamp || (rangeWrite v F32.c20 F32.c20000).2) = true) hne hsel (fun f => ?_) ?_ hu
    (fun f => ?_) fun f => ?_
  · rw [setCutoffs, recalcCoefs_ofFn_filter, hfs, hf]
  · rw [setCutoffs, recalcCoefs_ofFn_clamp, hfs, hf, hc]
  · rw [writeFc, setCutoffs, recalcCoefs_ofFn_filter, if_pos (decide_eq_true rfl), orClamp_fs, orClamp_filters]
  · rw [writeFc, setCutoffs, recalcCoefs_ofFn_clamp, orClamp_fs, orClamp_filters, orClamp_clamp]
    simp

theorem exists_bankOf (b : Fin 2) : ∃ c, bankOf c = b := ⟨combOf b 0, by revert b; decide⟩

/-- A broadcast to the FDN has no member left out. -/
theorem broadcast_all {unit : Fin 8 → Fin 32} {cmd : Fin 32 → Instr} {s t : State}
    (h : Broadcast (fun _ => True) unit cmd s t) :
    (∀ i u, exec (cmd (unit i)) s = .next u → t.filters[unit i] = u.filters[unit i]) ∧
    (t.clamp = true ↔ ∃ i u, exec (cmd (unit i)) s = .next u ∧ u.clamp = true) ∧
    ∀ f : Fin 32, (∀ i, f ≠ unit i) → t.filters[f] = s.filters[f] := by
  simpa only [Broadcast, true_and, forall_const] using h

/-- Settles O41: each broadcast stores and recomputes, filter by filter, as the write to that filter alone does. -/
theorem dampingWritesAreBroadcast : Obligations.DampingWritesAreBroadcast := by
  refine ⟨by decide, fun b v k s hp => ⟨?_, ?_⟩, fun v k s hp => ⟨?_, ?_⟩⟩
  · refine ⟨_, exec_wreg (.cbDampKind b) hp nofun (regLegal_kindCode k), ?_⟩
    simp only [writeReg, writeBankKind, kindOf_kindCode]
    refine ⟨by simp only [setKinds, recalcCoefs, setBank], by simp only [setKinds, recalcCoefs_banks, setBank_banks],
      broadcast_setKinds (exists_bankOf b) (dampOfBank_iff b) k hp rfl rfl rfl⟩
  · refine ⟨_, exec_wreg (.cbDampFc b) hp nofun rfl, ?_⟩
    simp only [writeReg, writeBankFc]
    refine ⟨by simp only [setCutoffs, recalcCoefs, setBank, orClamp], by simp only [setCutoffs, recalcCoefs_banks]; rfl,
      broadcast_setCutoffs (exists_bankOf b) (dampOfBank_iff b) v hp rfl rfl rfl⟩
  · refine ⟨_, exec_wreg .fdnDampKind hp nofun (regLegal_kindCode k), ?_⟩
    simp only [writeReg, writeFdnKind, kindOf_kindCode]
    refine ⟨by simp only [setKinds, recalcCoefs], by simp only [setKinds, recalcCoefs_fdn],
      broadcast_all (unit := fdf) (cmd := fun f => .wreg (regAddr (.fltKind f)) (kindCode k)) ?_⟩
    exact broadcast_setKinds ⟨0, trivial⟩ dampOfFdn_iff k hp rfl rfl rfl
  · refine ⟨_, exec_wreg .fdnDampFc hp nofun rfl, ?_⟩
    simp only [writeReg, writeFdnFc]
    refine ⟨by simp only [setCutoffs, recalcCoefs, orClamp], by simp only [setCutoffs, recalcCoefs_fdn]; rfl,
      broadcast_all (unit := fdf) (cmd := fun f => .wreg (regAddr (.fltFc f)) v) ?_⟩
    exact broadcast_setCutoffs ⟨0, trivial⟩ dampOfFdn_iff v hp rfl rfl rfl

end Sys2Proof.Machine
end

section
/-! ### The write rules that recompute gains and lengths (spec/10_state.md R48 to R50, R61 to R76) -/

namespace Sys2Proof.Machine

open Sys2Proof Sys2Proof.Safety

/-! #### The derived gains as the rules write them -/

/-- A comb unit whose gain is negative under a sign mode (spec/43_comb.md R301). -/
abbrev NegativeUnit (mode : SignMode) (c : Fin 16) : Prop := if mode = .alternate then c.val % 2 = 1 else c.val % 8 ≠ 0

theorem signNegative_posOf (mode : SignMode) (c : Fin 16) :
    signNegative mode (posOf c) = true ↔ NegativeUnit mode c := by
  have hc : c.val % 8 % 2 = c.val % 2 := by omega
  cases mode <;> simp [signNegative, posOf, NegativeUnit, hc]

/-- CBGAIN of a unit (spec/43_comb.md R300 to R302). -/
theorem combGain_posOf (fs len : F32) (bank : Bank) (c : Fin 16) :
    (combGain fs len bank (posOf c)).1 =
      if NegativeUnit bank.signMode c then F32.neg (capGain (decayLaw fs len bank.decay))
      else capGain (decayLaw fs len bank.decay) := by
  rw [combGain_fst]
  exact if_congr (signNegative_posOf _ _) rfl rfl

theorem recalcCombs_gain (sel : Fin 16 → Bool) (s : State) (c : Fin 16) :
    (recalcCombs sel s).combs[c] =
      if sel c then
        { s.combs[c] with
          fb :=
            if NegativeUnit s.banks[bankOf c].signMode c then
              F32.neg (capGain (decayLaw s.fs s.lines[cbl c].len s.banks[bankOf c].decay))
            else capGain (decayLaw s.fs s.lines[cbl c].len s.banks[bankOf c].decay) }
      else s.combs[c] := by
  rw [recalcCombs_comb, combGainOf, combGain_posOf]

theorem recalcCombs_clamps (sel : Fin 16 → Bool) (s : State) :
    (recalcCombs sel s).clamp = true ↔ s.clamp = true ∨ ∃ c : Fin 16, sel c = true ∧
      F32.lt F32.gmax (decayLaw s.fs s.lines[cbl c].len s.banks[bankOf c].decay) = true := recalcCombs_clamp sel s

theorem recalcFdnGains_clamps (sel : Fin 8 → Bool) (s : State) :
    (recalcFdnGains sel s).clamp = true ↔ s.clamp = true ∨ ∃ i : Fin 8, sel i = true ∧
      F32.lt F32.gmax (decayLaw s.fs s.lines[fdl i].len s.fdn.decay) = true := recalcFdnGains_clamp sel s

/-! #### Comb banks and all-pass chains -/

/-- The gains of a bank whose settings are bk (R63, R64). -/
theorem recalcCombs_inBank {b : Fin 2} {bk : Bank} {s t : State} (hfs : t.fs = s.fs) (hl : t.lines = s.lines)
    (hc : t.combs = s.combs) (hb : t.banks = s.banks.set b bk) (c : Fin 16) :
    (recalcCombs (combInBank b) t).combs[c] =
      if bankOf c = b then
        { s.combs[c] with
          fb :=
            if NegativeUnit bk.signMode c then F32.neg (capGain (decayLaw s.fs s.lines[cbl c].len bk.decay))
            else capGain (decayLaw s.fs s.lines[cbl c].len bk.decay) }
      else s.combs[c] := by
  rw [recalcCombs_gain, hfs, hl, hc, hb, getElem_set_fin]
  by_cases h : bankOf c = b
  · have hsel : combInBank b c = true := decide_eq_true h
    rw [if_pos h.symm, if_pos h, if_pos hsel]
  · have hsel : ¬ combInBank b c = true := by simpa [combInBank] using h
    rw [if_neg h, if_neg hsel]

theorem recalcCombs_inBank_clamp {b : Fin 2} {bk : Bank} {s t : State} (hfs : t.fs = s.fs) (hl : t.lines = s.lines)
    (hb : t.banks = s.banks.set b bk) :
    (recalcCombs (combInBank b) t).clamp = true ↔ t.clamp = true ∨ ∃ c : Fin 16, bankOf c = b ∧
      F32.lt F32.gmax (decayLaw s.fs s.lines[cbl c].len bk.decay) = true := by
  rw [recalcCombs_clamps, hfs, hl, hb]
  refine or_congr_right (exists_congr fun c => ?_)
  rw [combInBank, decide_eq_true_iff]
  refine and_congr_right fun h => ?_
  rw [getElem_set_fin, if_pos h.symm]

/-- Settles O40: a bank's gains are recomputed from its new settings, every other register is stored alone. -/
theorem writeCombAndAllPassRegisters : Obligations.WriteCombAndAllPassRegisters := by
  refine ⟨by decide, fun c v s hp => ⟨exec_wreg (.cbFb c) hp nofun rfl, exec_wreg (.cbMk c) hp nofun rfl⟩,
    fun b v m s hp => ⟨?_, ?_⟩, fun ch v m s hp => ⟨exec_wreg (.apG ch) hp nofun rfl, ?_⟩⟩
  · let bk : Bank := { s.banks[b] with decay := F32.clampR v F32.c0_01 F32.c1000 }
    refine ⟨_, exec_wreg (.cbDecay b) hp nofun rfl, ?_⟩
    simp only [writeReg, writeDecay]
    refine ⟨by simp only [recalcCombs, setBank, orClamp], by simp only [recalcCombs_banks]; rfl,
      recalcCombs_inBank (bk := bk) rfl rfl rfl rfl, ?_⟩
    refine (recalcCombs_inBank_clamp (s := s) (bk := bk) (by rfl) (by rfl) (by rfl)).trans ?_
    rw [orClamp_clamp, Bool.or_eq_true, or_assoc]
    rfl
  · let bk : Bank := { s.banks[b] with signMode := m }
    have hlegal : regLegal (.cbSignMode b) (signModeCode m) = true := by cases m <;> rfl
    refine ⟨_, exec_wreg (.cbSignMode b) hp nofun hlegal, ?_⟩
    simp only [writeReg, writeSignMode, signModeOf_signModeCode]
    exact ⟨by simp only [recalcCombs, setBank], by simp only [recalcCombs_banks, setBank_banks],
      recalcCombs_inBank (bk := bk) rfl rfl rfl rfl, recalcCombs_inBank_clamp (bk := bk) rfl rfl rfl⟩
  · have hlegal : regLegal (.apMode ch) (apModeCode m) = true := by cases m <;> rfl
    rw [exec_wreg (.apMode ch) hp nofun hlegal, writeReg, writeApMode, apModeOf_apModeCode]

/-! #### Delay lines -/

/-- LENCALC's starting value, by the number of the line (R50; spec/00_scope.md R6). -/
theorem effectiveMs_eq (room ms : F32) (l : Fin 44) :
    effectiveMs room l ms =
      if 36 ≤ l.val then F32.mul ms room
      else if (12 ≤ l.val ∧ l.val < 20) ∨ (24 ≤ l.val ∧ l.val < 28) ∨ (32 ≤ l.val ∧ l.val < 36) then
        F32.add ms stereoSpreadMs
      else ms := by
  by_cases h36 : 36 ≤ l.val
  · have ho : lineOwner l = .fdn ⟨l.val - 36, by omega⟩ := by
      rw [lineOwner, dif_neg (by omega), dif_neg (by omega), dif_neg (by omega)]
    rw [effectiveMs, ho, if_pos h36]
  · have hr : rightChannel l = true ↔
        (12 ≤ l.val ∧ l.val < 20) ∨ (24 ≤ l.val ∧ l.val < 28) ∨ (32 ≤ l.val ∧ l.val < 36) := by
      revert l; decide
    have ho : ∀ i, lineOwner l ≠ .fdn i := by
      revert l; decide
    rw [if_neg h36, effectiveMs]
    split
    next i hi => exact absurd hi (ho i)
    next => exact if_congr hr rfl rfl

/-- LENCALC of one line that has just been stored (R49). -/
theorem recalcLens_one (l : Fin 44) (ln : Line) (s : State) :
    recalcLens (fun k => decide (k = l)) (setLine l ln s) =
      { s with
        lines := s.lines.set l { ln with len := (lenCalc s.fs s.fdn.room l ln.lenMs ln.cap).1 }
        clamp := s.clamp || (lenCalc s.fs s.fdn.room l ln.lenMs ln.cap).2 } := by
  have hl : (setLine l ln s).lines[l] = ln := by rw [setLine_line, if_pos rfl]
  simp only [recalcLens, ofFn_ite_eq_set, any_finRange_eq, lenOf, hl]
  simp [setLine]

/-- What a WREG to DL_LENMS stores before it recomputes the gains, when LENCALC answers r (R49). -/
theorem writeLenMs_eq {l : Fin 44} {v : Word} {s : State} {r : F32 × Bool}
    (hr : lenCalc s.fs s.fdn.room l (F32.clampR v F32.zero F32.c100000) s.lines[l].cap = r) :
    writeLenMs l v s =
      recalcFdnGains (fdnOfLine l) (recalcCombs (combOfLine l)
        { s with
          lines := s.lines.set l { s.lines[l] with lenMs := F32.clampR v F32.zero F32.c100000, len := r.1 }
          clamp := s.clamp || writeClamps v (F32.clampR v F32.zero F32.c100000) || r.2 }) := by
  subst hr
  exact congrArg (fun u => recalcFdnGains (fdnOfLine l) (recalcCombs (combOfLine l) u))
    (recalcLens_one l { s.lines[l] with lenMs := (rangeWrite v F32.zero F32.c100000).1 }
      (orClamp (rangeWrite v F32.zero F32.c100000).2 s))

/-- The gain of the comb unit that owns a line, when the line has become ln (R49). -/
theorem recalcCombs_ofLine {l : Fin 44} {ln : Line} {s t : State} (hfs : t.fs = s.fs) (hb : t.banks = s.banks)
    (hc : t.combs = s.combs) (hl : t.lines = s.lines.set l ln) (c : Fin 16) :
    (recalcCombs (combOfLine l) t).combs[c] =
      if cbl c = l then
        { s.combs[c] with
          fb :=
            if NegativeUnit s.banks[bankOf c].signMode c then
              F32.neg (capGain (decayLaw s.fs ln.len s.banks[bankOf c].decay))
            else capGain (decayLaw s.fs ln.len s.banks[bankOf c].decay) }
      else s.combs[c] := by
  rw [recalcCombs_gain, hfs, hb, hc, hl, getElem_set_fin]
  by_cases h : cbl c = l
  · have hsel : combOfLine l c = true := decide_eq_true h
    rw [if_pos h.symm, if_pos h, if_pos hsel]
  · have hsel : ¬ combOfLine l c = true := by simpa [combOfLine] using h
    rw [if_neg h, if_neg hsel]

theorem recalcCombs_ofLine_clamp {l : Fin 44} {ln : Line} {s t : State} (hfs : t.fs = s.fs) (hb : t.banks = s.banks)
    (hl : t.lines = s.lines.set l ln) :
    (recalcCombs (combOfLine l) t).clamp = true ↔ t.clamp = true ∨ ∃ c : Fin 16, cbl c = l ∧
      F32.lt F32.gmax (decayLaw s.fs ln.len s.banks[bankOf c].decay) = true := by
  rw [recalcCombs_clamps, hfs, hb, hl]
  refine or_congr_right (exists_congr fun c => ?_)
  rw [combOfLine, decide_eq_true_iff]
  refine and_congr_right fun h => ?_
  rw [getElem_set_fin, if_pos h.symm]

/-- FDNGAIN of a line of the FDN (spec/45_fdn.md R362). -/
theorem recalcFdnGains_law (sel : Fin 8 → Bool) (s : State) (i : Fin 8) :
    (recalcFdnGains sel s).fdn.g[i] =
      if sel i then capGain (decayLaw s.fs s.lines[fdl i].len s.fdn.decay) else s.fdn.g[i] :=
  recalcFdnGains_gain sel s i

/-- The gain of the FDN line that owns a line, when the line has become ln (R49). -/
theorem recalcFdnGains_ofLine {l : Fin 44} {ln : Line} {s t : State} (hfs : t.fs = s.fs) (hn : t.fdn = s.fdn)
    (hl : t.lines = s.lines.set l ln) (i : Fin 8) :
    (recalcFdnGains (fdnOfLine l) t).fdn.g[i] =
      if fdl i = l then capGain (decayLaw s.fs ln.len s.fdn.decay) else s.fdn.g[i] := by
  rw [recalcFdnGains_law, hfs, hn, hl, getElem_set_fin]
  by_cases h : fdl i = l
  · have hsel : fdnOfLine l i = true := decide_eq_true h
    rw [if_pos h.symm, if_pos h, if_pos hsel]
  · have hsel : ¬ fdnOfLine l i = true := by simpa [fdnOfLine] using h
    rw [if_neg h, if_neg hsel]

theorem recalcFdnGains_ofLine_clamp {l : Fin 44} {ln : Line} {s t : State} (hfs : t.fs = s.fs) (hn : t.fdn = s.fdn)
    (hl : t.lines = s.lines.set l ln) :
    (recalcFdnGains (fdnOfLine l) t).clamp = true ↔ t.clamp = true ∨ ∃ i : Fin 8, fdl i = l ∧
      F32.lt F32.gmax (decayLaw s.fs ln.len s.fdn.decay) = true := by
  rw [recalcFdnGains_clamps, hfs, hn, hl]
  refine or_congr_right (exists_congr fun i => ?_)
  rw [fdnOfLine, decide_eq_true_iff]
  refine and_congr_right fun h => ?_
  rw [getElem_set_fin, if_pos h.symm]

/-- Settles O37: LENCALC of the one line, then the gain of the unit that owns it. -/
theorem writeDelayLineRegisters : Obligations.WriteDelayLineRegisters := by
  refine ⟨fun l v s hp => exec_wreg (.dlMaxMs l) hp nofun rfl, ?_⟩
  intro l v s hp v' ms len top low len'
  have hlen : lenCalc s.fs s.fdn.room l v' s.lines[l].cap = (len', F32.lt top len) := by
    rw [lenCalc, effectiveMs_eq]
  refine ⟨_, (exec_wreg (.dlLenMs l) hp nofun rfl).trans (congrArg _ (writeLenMs_eq hlen)), ?_⟩
  let ln : Line := { s.lines[l] with lenMs := v', len := len' }
  refine ⟨by simp only [recalcFdnGains, recalcCombs], by rw [recalcFdnGains_lines, recalcCombs_lines], fun c => ?_,
    (recalcFdnGains_fdn _ _).trans (by rw [recalcCombs_fdn]), fun i => ?_, ?_⟩
  · rw [recalcFdnGains_combs]
    exact recalcCombs_ofLine (ln := ln) (by rfl) (by rfl) (by rfl) (by rfl) c
  · exact recalcFdnGains_ofLine (ln := ln) (by rw [recalcCombs_fs]) (by rw [recalcCombs_fdn])
      (by rw [recalcCombs_lines]) i
  · refine (recalcFdnGains_ofLine_clamp (s := s) (ln := ln) (by rw [recalcCombs_fs]) (by rw [recalcCombs_fdn])
      (by rw [recalcCombs_lines])).trans ?_
    refine (or_congr_left (recalcCombs_ofLine_clamp (s := s) (ln := ln) (by rfl) (by rfl) (by rfl))).trans ?_
    simp only [Bool.or_eq_true, or_assoc]
    rfl

/-! #### The FDN -/

theorem lineOfFdn_iff : ∀ l : Fin 44, lineOfFdn l = true ↔ ∃ i, l = fdl i := by decide

/-- The lines of the FDN and no other get new lengths (R71). -/
theorem recalcLens_fdn_line (s : State) (i : Fin 8) :
    (recalcLens lineOfFdn s).lines[fdl i] =
      { s.lines[fdl i] with
        len := (lenCalc s.fs s.fdn.room (fdl i) s.lines[fdl i].lenMs s.lines[fdl i].cap).1 } := by
  rw [recalcLens_line, if_pos ((lineOfFdn_iff _).mpr ⟨i, rfl⟩), lenOf]

theorem recalcLens_other_line (s : State) (l : Fin 44) (h : l.val < 36) :
    (recalcLens lineOfFdn s).lines[l] = s.lines[l] := by
  have hl : ¬ lineOfFdn l = true := by
    rw [lineOfFdn_iff]
    rintro ⟨i, rfl⟩
    exact absurd h (by simp [fdl])
  rw [recalcLens_line, if_neg hl]

theorem recalcLens_fdn_clamp (s : State) :
    (recalcLens lineOfFdn s).clamp = true ↔ s.clamp = true ∨
      ∃ i : Fin 8, (lenCalc s.fs s.fdn.room (fdl i) s.lines[fdl i].lenMs s.lines[fdl i].cap).2 = true := by
  rw [recalcLens_clamp]
  refine or_congr_right ⟨?_, fun ⟨i, h⟩ => ⟨fdl i, (lineOfFdn_iff _).mpr ⟨i, rfl⟩, h⟩⟩
  rintro ⟨l, hl, h⟩
  obtain ⟨i, rfl⟩ := (lineOfFdn_iff l).mp hl
  exact ⟨i, h⟩

/-- Settles O42: FDN_ROOM gives its lines new lengths before their gains are recomputed. -/
theorem writeFdnRegisters : Obligations.WriteFdnRegisters := by
  refine ⟨by decide, fun v m s hp => ?_⟩
  intro unit dec
  refine ⟨⟨_, exec_wreg .fdnRoom hp nofun rfl, ?_⟩, ⟨_, exec_wreg .fdnDecay hp nofun rfl, ?_⟩, ?_,
    exec_wreg .fdnSpread hp nofun rfl, ?_, exec_wreg .fdnRoomSel hp nofun rfl⟩
  · rw [writeReg, writeRoom]
    refine ⟨by simp only [recalcFdnGains, recalcLens, orClamp], fun l hl => ?_, fun i => ⟨?_, ?_⟩, ?_, ?_⟩
    · rw [recalcFdnGains_lines, recalcLens_other_line _ l hl]; rfl
    · rw [recalcFdnGains_lines, recalcLens_fdn_line]; rfl
    · rw [recalcFdnGains_law, if_pos rfl, recalcFdnGains_lines, recalcLens_fs, recalcLens_fdn]; rfl
    · exact (recalcFdnGains_fdn _ _).trans (by rw [recalcLens_fdn]; rfl)
    · rw [recalcFdnGains_clamps, recalcLens_fdn_clamp, recalcFdnGains_lines, recalcLens_fs, recalcLens_fdn, exists_or,
        orClamp_clamp, Bool.or_eq_true, or_assoc, or_assoc]
      simp only [true_and]
      rfl
  · rw [writeReg, writeFdnDecay]
    refine ⟨by simp only [recalcFdnGains, orClamp], ?_, fun i => ?_, ?_⟩
    · exact (recalcFdnGains_fdn _ _).trans rfl
    · rw [recalcFdnGains_law, if_pos rfl]; rfl
    · rw [recalcFdnGains_clamps, orClamp_clamp, Bool.or_eq_true, or_assoc]
      simp only [true_and]
      rfl
  · exact exec_wreg .fdnModDepth hp nofun rfl
  · have hlegal : regLegal .fdnMixMode (mixModeCode m) = true := by cases m <;> rfl
    rw [exec_wreg .fdnMixMode hp nofun hlegal, writeReg, writeMixMode, mixModeOf_mixModeCode]

end Sys2Proof.Machine
end

section
/-! ### Commands never see the host stream, and words behind a whole command only wait
(spec/20_memory.md R106, R110)

Only the fetch reads the host stream. So a command answers, with any other host stream, the same state with that other
stream: `HostBlind` says so of a meaning, and that it always answers a next state. -/

namespace Sys2Proof

/-! #### The decoder and the words behind a command -/

/-- A command is built from its own data words only. -/
theorem build_append {o : Opcode} {rest : List Word} (h : o.dataWords ≤ rest.length) (w : Word) (ws : List Word) :
    build o w (rest ++ ws) = build o w rest := by
  cases o
  case wreg | pload | ldk => simp only [build, List.getD_append rest ws 0#32 0 h]
  case frame =>
    have h0 : 0 < rest.length := Nat.lt_of_lt_of_le (by decide) h
    simp only [build, List.getD_append rest ws 0#32 0 h0, List.getD_append rest ws 0#32 1 h]
  all_goals rfl

/-- A built command has the opcode it was built for. -/
theorem opcode_build (o : Opcode) (w : Word) (ws : List Word) : (build o w ws).opcode = o := by cases o <;> rfl

/-- What the decoder answers when all the words that a header announces are there, whatever stands behind them: a
command of the announced length, or an error about the header. -/
theorem decode_whole {w : Word} {rest : List Word} (h : commandLength w ≤ rest.length + 1) :
    (∃ i, i.length = commandLength w ∧
      ∀ ws, decode (w :: (rest ++ ws)) = .ok (i, (w :: (rest ++ ws)).drop i.length)) ∨
    (∀ ws, decode (w :: (rest ++ ws)) = .error (.illegalOpcode w)) ∨
    ∀ ws, decode (w :: (rest ++ ws)) = .error (.reservedField w) := by
  cases ho : opcodeOf (opField w) with
  | none => exact .inr (.inl fun ws => by simp only [decode, ho])
  | some o =>
    have hlen : commandLength w = 1 + o.dataWords := by simp only [commandLength, ho]
    have hdata : o.dataWords ≤ rest.length := by omega
    have hthere : ∀ ws : List Word, ¬ (rest ++ ws).length < o.dataWords := fun ws => by
      rw [List.length_append]; omega
    by_cases hmask : w &&& o.mask = o.pattern
    · have hi : (build o w rest).length = 1 + o.dataWords := by rw [Instr.length, opcode_build]
      refine .inl ⟨build o w rest, hi.trans hlen.symm, fun ws => ?_⟩
      rw [hi, Nat.add_comm, List.drop_succ_cons]
      simp only [decode, ho, if_neg (hthere ws), if_pos hmask, build_append hdata]
    · exact .inr (.inr fun ws => by simp only [decode, ho, if_neg (hthere ws), if_neg hmask])

end Sys2Proof

namespace Sys2Proof.Machine

open Sys2Proof

/-! #### A state with another host stream -/

/-- s with hs in place of its host stream. -/
def withHost (hs : List Word) (s : State) : State := { s with hostIn := hs }

@[simp] theorem withHost_hostIn (hs : List Word) (s : State) : (withHost hs s).hostIn = hs := rfl

@[simp] theorem withHost_pc (hs : List Word) (s : State) : (withHost hs s).pc = s.pc := rfl

@[simp] theorem withHost_fdn (hs : List Word) (s : State) : (withHost hs s).fdn = s.fdn := rfl

@[simp] theorem withHost_err (hs : List Word) (s : State) : (withHost hs s).err = s.err := rfl

@[simp] theorem stalled_withHost (hs : List Word) (s : State) : stalled (withHost hs s) = stalled s := rfl

theorem recordError_withHost (k : Cause) (w : Word) (hs : List Word) (s : State) :
    recordError k w (withHost hs s) = withHost hs (recordError k w s) := by
  unfold recordError
  rw [withHost_err]
  split <;> rfl

theorem getX_withHost (r : XReg) (hs : List Word) (s : State) : getX (withHost hs s) r = getX s r := rfl

theorem setX_withHost (r : XReg) (v : F32) (hs : List Word) (s : State) :
    setX r v (withHost hs s) = withHost hs (setX r v s) := rfl

theorem setXS_withHost (r : XReg) (v : F32) (hs : List Word) (s : State) :
    setXS r v (withHost hs s) = withHost hs (setXS r v s) := rfl

theorem raiseError_withHost (k : Cause) (i : Instr) (hs : List Word) (s : State) :
    raiseError k i (withHost hs s) = withHost hs (raiseError k i s) := recordError_withHost _ _ _ _

theorem hostOnly_withHost (i : Instr) (hs : List Word) (s t : State) :
    hostOnly i (withHost hs s) (withHost hs t) = withHost hs (hostOnly i s t) := by
  cases hp : s.pc with
  | none => rw [hostOnly_host hp, hostOnly_host (s := withHost hs s) hp]
  | some p => rw [hostOnly_program hp, hostOnly_program (s := withHost hs s) hp, raiseError_withHost]

theorem settle_withHost (hs : List Word) (s : State) : settle (withHost hs s) = withHost hs (settle s) := by
  unfold settle
  rw [stalled_withHost]
  split <;> rfl

theorem emitFailed_withHost (w : Word) (hs : List Word) (s : State) :
    emitFailed w (withHost hs s) = withHost hs (emitFailed w s) := by
  unfold emitFailed
  split <;> rfl

/-! #### Stepping units -/

theorem chainRun_withHost (ch : Fin 4) (ks : List (Fin 4)) (v : F32) (hs : List Word) (s : State) :
    chainRun ch ks v (withHost hs s) = ((chainRun ch ks v s).1, withHost hs (chainRun ch ks v s).2) := by
  induction ks generalizing v s with
  | nil => rfl
  | cons k ks ih => exact ih (apOut s (stageOf ch k) v) (apStep (stageOf ch k) v s)

theorem bankStep_withHost (b : Fin 2) (v : F32) (hs : List Word) (s : State) :
    bankStep b v (withHost hs s) = withHost hs (bankStep b v s) := by
  unfold bankStep
  induction List.finRange 8 generalizing s with
  | nil => rfl
  | cons k ks ih => exact ih (combStep (combOf b k) v s)

theorem fdnLeftTap_withHost (m : F32) (hs : List Word) (s : State) :
    fdnLeftTap (withHost hs s) m = fdnLeftTap s m := rfl

theorem fdnRightTap_withHost (m : F32) (hs : List Word) (s : State) :
    fdnRightTap (withHost hs s) m = fdnRightTap s m := rfl

theorem fdnStep_withHost (xL xR m : F32) (hs : List Word) (s : State) :
    fdnStep xL xR m (withHost hs s) = withHost hs (fdnStep xL xR m s) := rfl

/-! #### INIT and register writes -/

theorem initProc_withHost (hs : List Word) (s : State) : initProc (withHost hs s) = withHost hs (initProc s) := rfl

theorem writeReg_withHost (r : Reg) (v : Word) (hs : List Word) (s : State) :
    writeReg r v (withHost hs s) = withHost hs (writeReg r v s) := by
  cases r
  case fltKind | cbSignMode | cbDampKind | apMode | fdnMixMode | fdnDampKind =>
    simp only [writeReg, writeKind, writeSignMode, writeBankKind, writeApMode, writeMixMode, writeFdnKind]
    split <;> rfl
  all_goals rfl

theorem readReg_withHost (r : Reg) (hs : List Word) (s : State) : readReg r (withHost hs s) = readReg r s := by
  cases r <;> rfl

/-! #### Meanings that never see the host stream -/

/-- f answers a next state, and with another host stream the same next state with that host stream. -/
def HostBlind (f : State → Host.Outcome State Fault Refusal) : Prop :=
  ∀ s, ∃ t, f s = .next t ∧ ∀ hs, f (withHost hs s) = .next (withHost hs t)

namespace HostBlind

variable {f g : State → Host.Outcome State Fault Refusal}

theorem of_comm {F : State → State} (h : ∀ hs s, F (withHost hs s) = withHost hs (F s)) :
    HostBlind fun s => .next (F s) :=
  fun s => ⟨F s, rfl, fun hs => congrArg _ (h hs s)⟩

theorem andThen (hf : HostBlind f) (hg : HostBlind g) : HostBlind fun s => andThen (f s) g := by
  intro s
  obtain ⟨t, ht, htb⟩ := hf s
  obtain ⟨u, hu, hub⟩ := hg t
  exact ⟨u, by simp only [ht, andThen_next, hu], fun hs => by simp only [htb hs, andThen_next, hub hs]⟩

/-- A host-only command whose effect does not see the host stream. -/
theorem hostOnly {i : Instr} {F : State → State} (h : ∀ hs s, F (withHost hs s) = withHost hs (F s)) :
    HostBlind fun s => .next (hostOnly i s (F s)) :=
  of_comm fun hs s => by rw [h, hostOnly_withHost]

/-- WREG's checks speak of the command alone. -/
theorem execWreg (a : BitVec 16) (v : Word) : HostBlind (execWreg a v) :=
  hostOnly fun hs s => by
    split
    · exact raiseError_withHost _ _ hs s
    · split
      · exact raiseError_withHost _ _ hs s
      · split
        · exact writeReg_withHost _ v hs s
        · exact raiseError_withHost _ _ hs s

theorem execRreg (a : BitVec 16) : HostBlind (execRreg a) :=
  hostOnly fun hs s => by
    split
    · exact raiseError_withHost _ _ hs (emit 0#32 s)
    next r _ =>
      rw [readReg_withHost r hs s]
      rfl

theorem executeInProgram (i : Instr) : HostBlind (executeInProgram i) := by
  cases i with
  | wreg a v => exact execWreg a v
  | rreg a => exact execRreg a
  | init => exact hostOnly initProc_withHost
  | pload a p => exact hostOnly fun hs s => by split; exacts [raiseError_withHost _ _ hs s, rfl]
  | frame l r => exact of_comm fun hs s => raiseError_withHost _ _ hs s
  | cbProc xa xb u =>
    refine of_comm fun hs s => ?_
    split
    · exact raiseError_withHost _ _ hs s
    · rw [getX_withHost, bankStep_withHost, setXS_withHost]
      rfl
  | apcProc xa xb u =>
    refine of_comm fun hs s => ?_
    split
    · exact raiseError_withHost _ _ hs s
    · rw [getX_withHost, chainRun_withHost, setX_withHost]
  | fdnProc xa xb xc xe xm =>
    refine of_comm fun hs s => ?_
    simp only [getX_withHost, fdnLeftTap_withHost, fdnRightTap_withHost, withHost_fdn, fdnStep_withHost,
      setXS_withHost]
  | dlRd | dlRdo | dlWr | dlProc | fltProc | combProc | apProc =>
    refine of_comm fun hs s => ?_
    split
    exacts [raiseError_withHost _ _ hs s, rfl]
  | _ => exact of_comm fun _ _ => rfl

/-- A pass of a frame program fetches from PMEM. -/
theorem programStep (p : Nat) : HostBlind (programStep p) := by
  intro s
  have hwords : ∀ hs, programWords p (withHost hs s) = programWords p s := fun _ => rfl
  simp only [Machine.programStep, hwords]
  split
  next i rest _ => exact (executeInProgram i).andThen (of_comm fun _ _ => rfl) s
  next w _ => exact of_comm (fun hs s => congrArg (advancePc _) (recordError_withHost .illegalOpcode w hs s)) s
  next w _ => exact of_comm (fun hs s => congrArg (advancePc _) (recordError_withHost _ w hs s)) s
  next => exact of_comm (F := overrun p) (fun hs s => by rw [overrun, recordError_withHost]; rfl) s

theorem runProgram (n : Nat) : HostBlind (runProgram n) := by
  induction n with
  | zero => exact of_comm fun _ _ => rfl
  | succ n ih =>
    intro s
    cases hp : s.pc with
    | none => exact ⟨s, runProgram_none hp _, fun hs => runProgram_none (s := withHost hs s) hp _⟩
    | some p =>
      simp only [runProgram_some hp, fun hs => runProgram_some (s := withHost hs s) hp]
      exact (programStep p).andThen (fun t => ih (updateIrq t)) s

theorem completeFrame : HostBlind completeFrame := (runProgram _).andThen (of_comm fun _ _ => rfl)

theorem execFrame (l r : Word) : HostBlind (execFrame l r) := by
  intro s
  simp only [Machine.execFrame, withHost_pc]
  cases s.pc with
  | none => exact completeFrame (startFrame l r s)
  | some p => exact of_comm (raiseError_withHost .context (.frame l r)) s

/-- No command sees the host stream, FRAME with its whole program included. -/
theorem exec (i : Instr) : HostBlind (exec i) := by
  by_cases hi : ∃ l r, i = .frame l r
  · obtain ⟨l, r, rfl⟩ := hi
    exact execFrame l r
  · have he : Machine.exec i = Machine.executeInProgram i :=
      funext fun s => ((executeInProgram_eq_exec_or_frame i s).resolve_right hi).symm
    exact he ▸ executeInProgram i

end HostBlind

/-! #### The step of a whole command -/

/-- What the fetch finds when all the words that a header announces are there: with more words behind them it finds the
same, and leaves those. -/
theorem fetchCommand_whole {w : Word} {rest : List Word} {s : State} (hin : s.hostIn = w :: rest)
    (hlen : commandLength w ≤ rest.length + 1) :
    (∃ i, ∀ ws,
      fetchCommand (withHost (s.hostIn ++ ws) s) = .run i (withHost (s.hostIn.drop (commandLength w) ++ ws) s)) ∨
    ∃ k, ∀ ws, fetchCommand (withHost (s.hostIn ++ ws) s) = .failed (failWord k w (withHost (s.hostIn ++ ws) s)) := by
  rw [hin]
  simp only [List.cons_append]
  rcases decode_whole hlen with ⟨i, hi, hd⟩ | hd | hd
  · refine .inl ⟨i, fun ws => ?_⟩
    have hdrop : (w :: (rest ++ ws)).drop (commandLength w) = (w :: rest).drop (commandLength w) ++ ws :=
      List.drop_append_of_le_length (l₁ := w :: rest) hlen
    simp only [fetchCommand, hd, consume, hi, hdrop, withHost]
  · exact .inr ⟨.illegalOpcode, fun ws => by simp only [fetchCommand, withHost_hostIn, hd]⟩
  · exact .inr ⟨.reservedField, fun ws => by simp only [fetchCommand, withHost_hostIn, hd]⟩

/-- A failed header leaves the host words behind its own. -/
theorem failWord_withHost (k : Cause) (w : Word) (hs : List Word) (s : State) :
    failWord k w (withHost hs s) = withHost (hs.drop (commandLength w)) (failWord k w s) := by
  simp only [failWord, ← emitFailed_withHost, ← recordError_withHost]
  rfl

/-- In the host context a fetched command is executed, and the IRQ level follows. -/
theorem step_of_run {i : Instr} {s u : State} (hp : s.pc = none) (hst : stalled s = false)
    (hf : fetchCommand s = .run i u) : step s = andThen (exec i u) fun t => .next (settle t) := by
  simp only [step, hst, hp, hf, Bool.false_eq_true, if_false]

/-- In the host context a failed header is the error, and the IRQ level follows. -/
theorem step_of_failed {s u : State} (hp : s.pc = none) (hst : stalled s = false)
    (hf : fetchCommand s = .failed u) : step s = .next (settle u) := by
  simp only [step, hst, hp, hf, Bool.false_eq_true, if_false]

/-- The step of a whole command at the front of the host stream takes its words, and whatever else it does is the same with
any words behind them. -/
theorem step_whole {w : Word} {rest : List Word} {s : State} (hp : s.pc = none) (hst : stalled s = false)
    (hin : s.hostIn = w :: rest) (hlen : commandLength w ≤ rest.length + 1) :
    ∃ t, ∀ ws, step (withHost (s.hostIn ++ ws) s) = .next (withHost (s.hostIn.drop (commandLength w) ++ ws) t) := by
  rcases fetchCommand_whole hin hlen with ⟨i, hf⟩ | ⟨k, hf⟩
  · obtain ⟨t, -, hb⟩ := HostBlind.exec i s
    refine ⟨settle t, fun ws => ?_⟩
    rw [step_of_run (s := withHost (s.hostIn ++ ws) s) hp hst (hf ws), hb, andThen_next, settle_withHost]
  · refine ⟨settle (failWord k w s), fun ws => ?_⟩
    have hdrop := List.drop_append_of_le_length (l₂ := ws) (hin ▸ hlen : commandLength w ≤ s.hostIn.length)
    rw [step_of_failed (s := withHost (s.hostIn ++ ws) s) hp hst (hf ws), failWord_withHost, settle_withHost, hdrop]

/-- Settles O12: a step reads the words of its own command from the host stream, and nothing of the words behind. -/
theorem hostWordsDoNotDisturbAFrame : Obligations.HostWordsDoNotDisturbAFrame := by
  intro s w rest ws hp hst hin hlen
  obtain ⟨t, ht⟩ := step_whole hp hst hin hlen
  refine ⟨withHost (s.hostIn.drop (commandLength w)) t, ?_, ht ws⟩
  calc step s = step (withHost s.hostIn s) := rfl
    _ = _ := by simpa only [List.append_nil] using ht []

end Sys2Proof.Machine
end

section
/-! ### Which commands write which memory (spec/20_memory.md R102, R103, spec/10_state.md R34, R42, R44, R59) -/

namespace Sys2Proof.Machine

open Sys2Proof Sys2Proof.Safety

/-! #### Register writes and the filter states -/

/-- FLT_S1 and FLT_S2 of every filter are the same in t as in s (R59). -/
def SameFilterStates (s t : State) : Prop :=
  ∀ f : Fin 32, t.filters[f].s1 = s.filters[f].s1 ∧ t.filters[f].s2 = s.filters[f].s2

namespace SameFilterStates

variable {s t u : State}

theorem of_eq (h : t.filters = s.filters) : SameFilterStates s t := fun f => by rw [h]; exact ⟨rfl, rfl⟩

theorem trans (h : SameFilterStates s t) (h' : SameFilterStates t u) : SameFilterStates s u :=
  fun f => ⟨(h' f).1.trans (h f).1, (h' f).2.trans (h f).2⟩

theorem setFilter {f : Fin 32} {fl : Filter} (h1 : fl.s1 = s.filters[f].s1) (h2 : fl.s2 = s.filters[f].s2) :
    SameFilterStates s (setFilter f fl s) := fun g => by
  rw [setFilter_filter]
  split
  next hg => exact hg ▸ ⟨h1, h2⟩
  next => exact ⟨rfl, rfl⟩

theorem recalcCoefs (sel : Fin 32 → Bool) (h : SameFilterStates s t) : SameFilterStates s (recalcCoefs sel t) :=
  h.trans fun f => by
    rw [recalcCoefs_filter]
    split <;> exact ⟨rfl, rfl⟩

theorem setKinds (sel : Fin 32 → Bool) (k : FilterKind) : SameFilterStates s (setKinds sel k s) :=
  recalcCoefs sel fun f => by
    rw [Fin.getElem_fin, Vector.getElem_ofFn]
    split <;> exact ⟨rfl, rfl⟩

theorem setCutoffs (sel : Fin 32 → Bool) (fc : F32) : SameFilterStates s (setCutoffs sel fc s) :=
  recalcCoefs sel fun f => by
    rw [Fin.getElem_fin, Vector.getElem_ofFn]
    split <;> exact ⟨rfl, rfl⟩

/-- No register write but one to FS, which is an INIT, touches a filter state (R55 to R58, R65, R66, R77, R78). -/
theorem writeReg {r : Reg} (hfs : r ≠ .fs) (v : Word) : SameFilterStates s (writeReg r v s) := by
  cases r
  case fs => exact absurd rfl hfs
  case fltKind | cbDampKind | fdnDampKind =>
    simp only [Machine.writeReg, writeKind, writeBankKind, writeFdnKind]
    split
    exacts [of_eq rfl, (of_eq rfl).trans (setKinds _ _)]
  case fltFc | cbDampFc | fdnDampFc => exact (of_eq rfl).trans (setCutoffs _ _)
  case fltP => exact recalcCoefs _ (setFilter (by rfl) (by rfl))
  case fltB0 | fltB1 | fltB2 | fltA1 | fltA2 => exact setFilter (by rfl) (by rfl)
  case cbSignMode | apMode | fdnMixMode =>
    simp only [Machine.writeReg, writeSignMode, writeApMode, writeMixMode]
    split <;> exact of_eq (by simp)
  case dlLenMs | cbDecay | fdnRoom | fdnDecay =>
    exact of_eq (by simp [Machine.writeReg, writeLenMs, writeDecay, writeRoom, writeFdnDecay])
  all_goals exact of_eq rfl

end SameFilterStates

/-! #### The writers of each memory -/

/-- INIT, and the write to FS that ends in an INIT (R41). -/
def Initialises (i : Instr) : Prop := i = .init ∨ ∃ v, i = .wreg (regAddr .fs) v

/-- The commands that write buffers and cursors, FRAME by its program. -/
def bufferWriters : List Opcode := [.dlWr, .dlProc, .combProc, .cbProc, .apProc, .apcProc, .fdnProc, .frame]

/-- The commands that write filter states, FRAME by its program. -/
def filterStateWriters : List Opcode := [.fltProc, .combProc, .cbProc, .fdnProc, .frame]

/-- i writes buffers or cursors. -/
def WritesBuffers (i : Instr) : Prop := bufferWriters.contains i.opcode = true ∨ Initialises i

/-- i writes filter states. -/
def WritesFilterStates (i : Instr) : Prop := filterStateWriters.contains i.opcode = true ∨ Initialises i

/-- Each memory is in t as in s, unless i is one of its writers. -/
structure WritesOnlyIts (i : Instr) (s t : State) : Prop where
  pmem : i.opcode ≠ .pload → t.pmem = s.pmem
  buffers : ¬ WritesBuffers i → ∀ l : Fin 44, bufferPart t.lines[l] = bufferPart s.lines[l]
  states : ¬ WritesFilterStates i → SameFilterStates s t
  fin : i.opcode ≠ .frame → t.finL = s.finL ∧ t.finR = s.finR
  fout : i.opcode ≠ .frame → i.opcode ≠ .out → t.foutL = s.foutL ∧ t.foutR = s.foutR
  frameCnt : i.opcode ≠ .frame → t.frameCnt = s.frameCnt

/-- The memories of which `WritesOnlyIts` speaks. -/
def memoryOf (s : State) :
    Vector Word 256 × Vector Line 44 × Vector Filter 32 × F32 × F32 × F32 × F32 × BitVec 32 :=
  (s.pmem, s.lines, s.filters, s.finL, s.finR, s.foutL, s.foutR, s.frameCnt)

namespace WritesOnlyIts

variable {i : Instr} {s t u : State}

/-- What touches no memory. -/
theorem of_eq (h : memoryOf t = memoryOf s) : WritesOnlyIts i s t := by
  simp only [memoryOf, Prod.mk.injEq] at h
  obtain ⟨hpmem, hlines, hfilters, hfinL, hfinR, hfoutL, hfoutR, hcnt⟩ := h
  exact ⟨fun _ => hpmem, fun _ _ => by rw [hlines], fun _ => .of_eq hfilters, fun _ => ⟨hfinL, hfinR⟩,
    fun _ _ => ⟨hfoutL, hfoutR⟩, fun _ => hcnt⟩

theorem trans (h : WritesOnlyIts i s t) (h' : WritesOnlyIts i t u) : WritesOnlyIts i s u where
  pmem hi := (h'.pmem hi).trans (h.pmem hi)
  buffers hi l := (h'.buffers hi l).trans (h.buffers hi l)
  states hi := (h.states hi).trans (h'.states hi)
  fin hi := ⟨(h'.fin hi).1.trans (h.fin hi).1, (h'.fin hi).2.trans (h.fin hi).2⟩
  fout hi ho := ⟨(h'.fout hi ho).1.trans (h.fout hi ho).1, (h'.fout hi ho).2.trans (h.fout hi ho).2⟩
  frameCnt hi := (h'.frameCnt hi).trans (h.frameCnt hi)

theorem setX (r : XReg) (v : F32) (h : WritesOnlyIts i s t) : WritesOnlyIts i s (setX r v t) := h.trans (of_eq rfl)

theorem raiseError (k : Cause) (j : Instr) : WritesOnlyIts i s (raiseError k j s) :=
  of_eq (by simp [memoryOf, Machine.raiseError])

/-- A host-only command has its effect, or is the error CONTEXT. -/
theorem hostOnly {j : Instr} (h : WritesOnlyIts i s t) : WritesOnlyIts i s (hostOnly j s t) := by
  cases hp : s.pc with
  | none => rwa [hostOnly_host hp]
  | some p => exact hostOnly_program hp j t ▸ raiseError _ _

/-! #### Delay lines and filters -/

theorem setLine (hi : WritesBuffers i) (l : Fin 44) (ln : Line) : WritesOnlyIts i s (setLine l ln s) :=
  ⟨fun _ => rfl, fun h => absurd hi h, fun _ => .of_eq rfl, fun _ => ⟨rfl, rfl⟩, fun _ _ => ⟨rfl, rfl⟩, fun _ => rfl⟩

theorem setFilter (hi : WritesFilterStates i) (f : Fin 32) (fl : Filter) : WritesOnlyIts i s (setFilter f fl s) :=
  ⟨fun _ => rfl, fun _ _ => rfl, fun h => absurd hi h, fun _ => ⟨rfl, rfl⟩, fun _ _ => ⟨rfl, rfl⟩, fun _ => rfl⟩

theorem chainRun (hi : WritesBuffers i) (ch : Fin 4) (ks : List (Fin 4)) (v : F32) :
    WritesOnlyIts i s (chainRun ch ks v s).2 := by
  induction ks generalizing v s with
  | nil => exact of_eq rfl
  | cons k ks ih => exact (setLine hi _ _).trans (ih _)

theorem combStep (hb : WritesBuffers i) (hf : WritesFilterStates i) (c : Fin 16) (v : F32) :
    WritesOnlyIts i s (combStep c v s) :=
  (setLine hb _ _).trans (setFilter hf _ _)

theorem bankStep (hb : WritesBuffers i) (hf : WritesFilterStates i) (b : Fin 2) (v : F32) :
    WritesOnlyIts i s (bankStep b v s) := by
  unfold Machine.bankStep
  induction List.finRange 8 generalizing s with
  | nil => exact of_eq rfl
  | cons k ks ih => exact (combStep hb hf _ v).trans ih

theorem fdnStep (hb : WritesBuffers i) (hf : WritesFilterStates i) (xL xR m : F32) :
    WritesOnlyIts i s (fdnStep xL xR m s) :=
  ⟨by simp, fun h => absurd hb h, fun h => absurd hf h, by simp, by simp, by simp⟩

/-! #### The commands -/

/-- What register writes and INIT leave alone, and the buffers and filter states as given. -/
theorem of_writeFrame (h : writeFrame t = writeFrame s)
    (hb : ¬ WritesBuffers i → ∀ l : Fin 44, bufferPart t.lines[l] = bufferPart s.lines[l])
    (hf : ¬ WritesFilterStates i → SameFilterStates s t) :
    WritesOnlyIts i s t where
  pmem _ := (congrArg State.pmem h :)
  buffers := hb
  states := hf
  fin _ := ⟨(congrArg State.finL h :), (congrArg State.finR h :)⟩
  fout _ _ := ⟨(congrArg State.foutL h :), (congrArg State.foutR h :)⟩
  frameCnt _ := (congrArg State.frameCnt h :)

theorem initProc (hi : Initialises i) : WritesOnlyIts i s (initProc s) :=
  of_writeFrame (WriteEffect.refl s).initProc.rest (fun h => absurd (.inr hi) h) (fun h => absurd (.inr hi) h)

theorem writeReg {a : BitVec 16} {r : Reg} (ha : regOf a = some r) (v : Word) :
    WritesOnlyIts (.wreg a v) s (writeReg r v s) := by
  have hinit : r = .fs → Initialises (.wreg a v) := fun hr => .inr ⟨v, by rw [← hr, regAddr_of_regOf ha]⟩
  exact of_writeFrame (writeFrame_writeReg r v s)
    (fun h => bufferPart_writeReg v s fun hr => h (.inr (hinit hr)))
    (fun h => .writeReg (fun hr => h (.inr (hinit hr))) v)

theorem execWreg {a : BitVec 16} {v : Word} (ht : execWreg a v s = .next t) : WritesOnlyIts (.wreg a v) s t := by
  obtain rfl := Host.Outcome.next.inj ht
  refine hostOnly ?_
  split
  · exact raiseError _ _
  next r hr =>
    split
    · exact raiseError _ _
    · split
      · exact writeReg hr v
      · exact raiseError _ _

/-- A FRAME that runs its program leaves PMEM alone (R103). -/
theorem frame {l r : Word} (h : ProgramEffect (startFrame l r s) u) : WritesOnlyIts (.frame l r) s (finishFrame u) where
  pmem _ := (congrArg State.pmem h.rest :)
  buffers h := absurd (.inl rfl) h
  states h := absurd (.inl rfl) h
  fin h := absurd rfl h
  fout h := absurd rfl h
  frameCnt h := absurd rfl h

theorem execFrame {l r : Word} (ht : execFrame l r s = .next t) : WritesOnlyIts (.frame l r) s t := by
  cases hp : s.pc with
  | none =>
    obtain ⟨u, hu, rfl⟩ := completeFrame_effect ((execFrame_host hp l r).symm.trans ht)
    exact frame hu
  | some p =>
    simp only [Machine.execFrame, hp] at ht
    exact Host.Outcome.next.inj ht ▸ raiseError _ _

/-- Every command writes only the memories it is a writer of. A command with a unit field fails UNIT_RANGE or steps its
unit. -/
theorem exec (ht : exec i s = .next t) : WritesOnlyIts i s t := by
  cases i
  case wreg a v => exact execWreg ht
  case frame l r => exact execFrame ht
  all_goals obtain rfl := Host.Outcome.next.inj ht
  case rreg a =>
    refine hostOnly ?_
    split
    exacts [(of_eq (s := s) (t := emit 0#32 s) rfl).trans (raiseError _ _), of_eq rfl]
  case init => exact hostOnly (initProc (.inl rfl))
  case pload a p =>
    refine hostOnly ?_
    split
    · exact raiseError _ _
    · exact ⟨fun h => absurd rfl h, fun _ _ => rfl, fun _ => .of_eq rfl, fun _ => ⟨rfl, rfl⟩, fun _ _ => ⟨rfl, rfl⟩,
        fun _ => rfl⟩
  case out xb xc =>
    exact ⟨fun _ => rfl, fun _ _ => rfl, fun _ => .of_eq rfl, fun _ => ⟨rfl, rfl⟩, fun _ h => absurd rfl h, fun _ => rfl⟩
  case endProg | nop | mov | add | sub | mul | ldk | inp => exact of_eq rfl
  case dlRd | dlRdo =>
    split
    exacts [raiseError _ _, of_eq rfl]
  case dlWr xb u =>
    split
    exacts [raiseError _ _, setLine (.inl rfl) _ _]
  case dlProc xa xb u =>
    split
    exacts [raiseError _ _, (setLine (.inl rfl) _ _).setX _ _]
  case fltProc xa xb u =>
    split
    exacts [raiseError _ _, (setFilter (.inl rfl) _ _).setX _ _]
  case combProc xa xb u =>
    split
    exacts [raiseError _ _, (combStep (.inl rfl) (.inl rfl) _ _).setX _ _]
  case cbProc xa xb u =>
    split
    exacts [raiseError _ _, (bankStep (.inl rfl) (.inl rfl) _ _).setX _ _]
  case apProc xa xb u =>
    split
    exacts [raiseError _ _, (setLine (.inl rfl) _ _).setX _ _]
  case apcProc xa xb u =>
    split
    exacts [raiseError _ _, (chainRun (.inl rfl) _ _ _).setX _ _]
  case fdnProc xa xb xc xe xm =>
    exact ((fdnStep (.inl rfl) (.inl rfl) _ _ _).setX _ _).setX _ _

end WritesOnlyIts

/-- Settles O49: the writers of each memory are those of `WritesOnlyIts`. -/
theorem onlyTheirCommandsWriteMemory : Obligations.OnlyTheirCommandsWriteMemory := by
  intro i s t ht
  have h := WritesOnlyIts.exec ht
  refine ⟨h.pmem, fun hinit hframe hfs => ?_, fun hframe => ?_, h.frameCnt⟩
  · have hno : ¬ Initialises i := by
      rintro (rfl | ⟨v, rfl⟩)
      exacts [hinit rfl, hfs v rfl]
    refine ⟨fun _ _ _ _ _ _ _ l => ?_, fun _ _ _ _ => ?_⟩
    · have hb := h.buffers (by simp [WritesBuffers, bufferWriters, *]) l
      simp only [bufferPart, Prod.mk.injEq] at hb
      obtain ⟨-, hwptr, hbuf⟩ := hb
      exact ⟨hbuf, hwptr⟩
    · exact h.states (by simp [WritesFilterStates, filterStateWriters, *])
  · obtain ⟨hfinL, hfinR⟩ := h.fin hframe
    exact ⟨hfinL, hfinR, h.fout hframe⟩

end Sys2Proof.Machine
end

section
/-! ### Decoding and encoding are inverse (spec/30_encoding.md R140, R141, R145 to R149, R151)

A command's header is determined by its opcode and the free bits of the format: `Opcode.fix o w` is w with the fixed bits
of o. Both directions of the round trip rest on `header_build`: whatever word a command is built from, its header is
that word with the fixed bits of its opcode. -/

namespace Sys2Proof

/-! #### The fixed bits of an opcode -/

/-- w with the fixed header bits of o (spec/30_encoding.md R146): the match column where the mask is 1, w elsewhere. -/
def Opcode.fix (o : Opcode) (w : Word) : Word := o.pattern ||| (w &&& ~~~o.mask)

/-- The match column has a 1 only where the mask has one. -/
theorem Opcode.pattern_and_mask (o : Opcode) : o.pattern &&& o.mask = o.pattern := by cases o <;> rfl

/-- The decoder's check of a header: it has the fixed bits of the opcode. -/
theorem Opcode.fix_eq_self_iff (o : Opcode) (w : Word) : o.fix w = w ↔ w &&& o.mask = o.pattern := by
  constructor
  · intro h
    calc w &&& o.mask = o.fix w &&& o.mask := by rw [h]
      _ = o.pattern &&& o.mask := by simp [Opcode.fix, BitVec.and_or_distrib_right, BitVec.and_assoc]
      _ = o.pattern := o.pattern_and_mask
  · intro h
    calc o.fix w = (w &&& o.mask) ||| (w &&& ~~~o.mask) := by rw [Opcode.fix, h]
      _ = w := by rw [← BitVec.and_or_distrib_left, BitVec.or_not_self, BitVec.and_allOnes]

theorem opField_fix (o : Opcode) (w : Word) : opField (o.fix w) = o.bits := by
  have hpat : o.pattern.extractLsb' 24 8 = o.bits := by cases o <;> rfl
  have hmask : (~~~o.mask).extractLsb' 24 8 = 0#8 := by cases o <;> rfl
  rw [opField, Opcode.fix, BitVec.extractLsb'_or, BitVec.extractLsb'_and, hpat, hmask, BitVec.and_zero, BitVec.or_zero]

/-- Below the opcode field the fixed bits are 0 (spec/30_encoding.md R147). -/
theorem Opcode.extract_fix (o : Opcode) (w : Word) {start len : Nat} (h : start + len ≤ 24) :
    (o.fix w).extractLsb' start len = w.extractLsb' start len &&& ~~~(o.mask.extractLsb' start len) := by
  have hpat : o.pattern.extractLsb' start len = 0#len := by
    rw [Opcode.pattern, BitVec.extractLsb'_append_eq_of_add_le h, BitVec.extractLsb'_zero]
  rw [Opcode.fix, BitVec.extractLsb'_or, BitVec.extractLsb'_and, BitVec.extractLsb'_not_of_lt (by omega), hpat,
    BitVec.zero_or]

/-- A field that the mask leaves free is the word's. -/
theorem Opcode.extract_fix_free {o : Opcode} {w : Word} {start len : Nat} (h : start + len ≤ 24)
    (hm : o.mask.extractLsb' start len = 0#len) : (o.fix w).extractLsb' start len = w.extractLsb' start len := by
  rw [o.extract_fix w h, hm, BitVec.not_zero, BitVec.and_allOnes]

/-- A field that the mask fixes is 0. -/
theorem Opcode.extract_fix_fixed {o : Opcode} {w : Word} {start len : Nat} (h : start + len ≤ 24)
    (hm : o.mask.extractLsb' start len = BitVec.allOnes len) : (o.fix w).extractLsb' start len = 0#len := by
  rw [o.extract_fix w h, hm, BitVec.not_allOnes, BitVec.and_zero]

/-! #### A header and its fields -/

/-- A word is the header of its own fields. -/
theorem headerOf_fields {o : Opcode} {w : Word} (h : opField w = o.bits) :
    headerOf o (xaField w) (xbField w) (xcField w) (uField w) = w := by
  apply BitVec.eq_of_toNat_eq
  rw [headerOf_toNat, ← h]
  simp only [opField, xaField, xbField, xcField, uField, BitVec.val_toFin, extract_toNat]
  omega

/-- The address field is XC and U together (spec/30_encoding.md R141). -/
theorem headerAddr_addrField (o : Opcode) (w : Word) :
    headerAddr o (addrField w) = headerOf o 0 0 (xcField w) (uField w) := by
  apply BitVec.eq_of_toNat_eq
  rw [headerAddr_toNat, headerOf_toNat]
  simp only [addrField, xcField, uField, BitVec.val_toFin, extract_toNat]
  omega

theorem unitOfN_toNat (e m : XReg) : (unitOfN e m).toNat = e.val * 16 + m.val := by
  rw [unitOfN, BitVec.toNat_ofNat]
  omega

/-- In format N the unit field is XE and XM, U[11:8] being reserved (spec/30_encoding.md R141). -/
theorem uField_fix_fdnProc (w : Word) : uField (Opcode.fdnProc.fix w) = unitOfN (xeField w) (xmField w) := by
  have hfree : (~~~(Opcode.fdnProc.mask.extractLsb' 0 12)).toNat = 2 ^ 8 - 1 := rfl
  apply BitVec.eq_of_toNat_eq
  rw [uField, Opcode.extract_fix _ _ (by decide), BitVec.toNat_and, hfree, Nat.and_two_pow_sub_one_eq_mod, unitOfN_toNat]
  simp only [xeField, xmField, BitVec.val_toFin, extract_toNat]
  omega

theorem xeField_headerOf_unitOfN (o : Opcode) (a b c e m : XReg) :
    xeField (headerOf o a b c (unitOfN e m)) = e := by
  apply Fin.ext
  rw [xeField, BitVec.val_toFin, extract_toNat, headerOf_toNat, unitOfN_toNat]
  omega

theorem xmField_headerOf_unitOfN (o : Opcode) (a b c e m : XReg) :
    xmField (headerOf o a b c (unitOfN e m)) = m := by
  apply Fin.ext
  rw [xmField, BitVec.val_toFin, extract_toNat, headerOf_toNat, unitOfN_toNat]
  omega

/-! #### Building a command and taking it apart -/

/-- The header of a built command is the word it was built from, with the fixed bits of its opcode. -/
theorem header_build (o : Opcode) (w : Word) (ws : List Word) : (build o w ws).header = o.fix w := by
  have hzero : (0#4).toFin = (0 : XReg) := rfl
  rw [← headerOf_fields (opField_fix o w)]
  cases o
  case fdnProc =>
    rw [uField_fix_fdnProc]
    simp (disch := decide) only [build, Instr.header, xaField, xbField, xcField, Opcode.extract_fix_free]
  all_goals
    simp (disch := decide) only [build, Instr.header, headerAddr_addrField, xaField, xbField, xcField, uField,
      Opcode.extract_fix_free, Opcode.extract_fix_fixed, hzero]

/-- A command is what is built from its own words. -/
theorem build_header_data (i : Instr) (rest : List Word) : build i.opcode i.header (i.data ++ rest) = i := by
  cases i
  case fdnProc =>
    simp only [Instr.opcode, Instr.header, build, xaField_headerOf, xbField_headerOf, xcField_headerOf,
      xeField_headerOf_unitOfN, xmField_headerOf_unitOfN]
  all_goals
    simp [Instr.opcode, Instr.header, Instr.data, build]

/-- The header of a command has the fixed bits of its opcode (spec/30_encoding.md R146, R147). -/
theorem header_and_mask (i : Instr) : i.header &&& i.opcode.mask = i.opcode.pattern := by
  rw [← Opcode.fix_eq_self_iff]
  calc i.opcode.fix i.header = (build i.opcode i.header (i.data ++ [])).header := (header_build ..).symm
    _ = i.header := by rw [build_header_data]

/-- A command has as many data words as its opcode announces (spec/30_encoding.md R140, R148). -/
theorem data_length (i : Instr) : i.data.length = i.opcode.dataWords := by cases i <;> rfl

/-- The data words of a built command are the words after its header. -/
theorem data_build {o : Opcode} {ws : List Word} (h : o.dataWords ≤ ws.length) (w : Word) :
    (build o w ws).data = ws.take o.dataWords := by
  cases o
  case wreg | pload | ldk =>
    obtain ⟨v, vs, rfl⟩ := List.exists_cons_of_length_pos h
    rfl
  case frame =>
    match ws, h with
    | l :: r :: _, _ => rfl
  all_goals rfl

/-! #### The decoder, by what the header and the words after it are -/

theorem decode_of_illegal {w : Word} (ho : opcodeOf (opField w) = none) (ws : List Word) :
    decode (w :: ws) = .error (.illegalOpcode w) := by simp only [decode, ho]

theorem decode_of_short {o : Opcode} {w : Word} {ws : List Word} (ho : opcodeOf (opField w) = some o)
    (hlen : ws.length < o.dataWords) : decode (w :: ws) = .error .needWords := by
  simp only [decode, ho, if_pos hlen]

theorem decode_of_reserved {o : Opcode} {w : Word} {ws : List Word} (ho : opcodeOf (opField w) = some o)
    (hlen : o.dataWords ≤ ws.length) (hmask : w &&& o.mask ≠ o.pattern) :
    decode (w :: ws) = .error (.reservedField w) := by
  simp only [decode, ho, if_neg (Nat.not_lt.mpr hlen), if_neg hmask]

theorem decode_of_matching {o : Opcode} {w : Word} {ws : List Word} (ho : opcodeOf (opField w) = some o)
    (hlen : o.dataWords ≤ ws.length) (hmask : w &&& o.mask = o.pattern) :
    decode (w :: ws) = .ok (build o w ws, ws.drop o.dataWords) := by
  simp only [decode, ho, if_neg (Nat.not_lt.mpr hlen), if_pos hmask]

/-- Words that decode hold an assigned header with its fixed bits and all its data words. -/
theorem exists_of_decode_eq_ok {vs rest : List Word} {i : Instr} (h : decode vs = .ok (i, rest)) :
    ∃ o w ws, vs = w :: ws ∧ o.dataWords ≤ ws.length ∧ w &&& o.mask = o.pattern ∧ i = build o w ws ∧
      rest = ws.drop o.dataWords := by
  cases vs with
  | nil => cases h
  | cons w ws =>
    cases ho : opcodeOf (opField w) with
    | none => rw [decode_of_illegal ho] at h; cases h
    | some o =>
      by_cases hlen : ws.length < o.dataWords
      · rw [decode_of_short ho hlen] at h; cases h
      · have hlen := Nat.not_lt.mp hlen
        by_cases hmask : w &&& o.mask = o.pattern
        · rw [decode_of_matching ho hlen hmask] at h
          cases h
          exact ⟨o, w, ws, rfl, hlen, hmask, rfl, rfl⟩
        · rw [decode_of_reserved ho hlen hmask] at h; cases h

/-- Settles O1: the header of a command passes the decoder's checks, and the command is rebuilt from its own words. -/
theorem decodeOfEncode : Obligations.DecodeOfEncode := by
  intro i rest
  have ho : opcodeOf (opField i.header) = some i.opcode := by rw [opField_header, opcodeOf_bits]
  have hlen : i.opcode.dataWords ≤ (i.data ++ rest).length := by rw [List.length_append, data_length]; omega
  calc decode (encode i ++ rest)
      = .ok (build i.opcode i.header (i.data ++ rest), (i.data ++ rest).drop i.opcode.dataWords) :=
        decode_of_matching ho hlen (header_and_mask i)
    _ = .ok (i, rest) := by rw [build_header_data, List.drop_left' (data_length i)]

/-- Settles O2: the header and the data words of a built command are the words it was built from. -/
theorem encodeOfDecode : Obligations.EncodeOfDecode := by
  intro vs i rest h
  obtain ⟨o, w, ws, rfl, hlen, hmask, rfl, rfl⟩ := exists_of_decode_eq_ok h
  have hheader : (build o w ws).header = w := by rw [header_build, (o.fix_eq_self_iff w).mpr hmask]
  rw [encode, hheader, data_build hlen, List.cons_append, List.take_append_drop]

/-! #### Rejected words -/

/-- An opcode value that names a command is that command's value (spec/30_encoding.md R146). -/
theorem eq_bits_of_opcodeOf {v : BitVec 8} {o : Opcode} (h : opcodeOf v = some o) : v = o.bits := by
  unfold opcodeOf at h
  split at h <;> cases h <;> exact BitVec.eq_of_toNat_eq ‹_›

theorem opcodeOf_eq_some_iff (v : BitVec 8) (o : Opcode) : opcodeOf v = some o ↔ v = o.bits :=
  ⟨eq_bits_of_opcodeOf, fun h => h ▸ opcodeOf_bits o⟩

/-- The ranges of unassigned opcode values (spec/30_encoding.md R149). -/
abbrev UnassignedOpcode (v : BitVec 8) : Prop :=
  (0x07 ≤ v.toNat ∧ v.toNat ≤ 0x0F) ∨ (0x17 ≤ v.toNat ∧ v.toNat ≤ 0x1F) ∨ (0x24 ≤ v.toNat ∧ v.toNat ≤ 0x2F) ∨
  (0x31 ≤ v.toNat ∧ v.toNat ≤ 0x3F) ∨ (0x42 ≤ v.toNat ∧ v.toNat ≤ 0x4F) ∨ (0x52 ≤ v.toNat ∧ v.toNat ≤ 0x5F) ∨
  0x61 ≤ v.toNat

/-- No command's opcode value lies in the unassigned ranges. -/
theorem not_unassignedOpcode_bits (o : Opcode) : ¬ UnassignedOpcode o.bits := by cases o <;> decide

theorem opcodeOf_eq_none_iff (v : BitVec 8) : opcodeOf v = none ↔ UnassignedOpcode v := by
  constructor
  · intro h
    unfold opcodeOf at h
    split at h <;> cases h
    simp only [imp_false] at *
    simp only [UnassignedOpcode]
    omega
  · intro h
    cases ho : opcodeOf v with
    | none => rfl
    | some o => exact absurd (eq_bits_of_opcodeOf ho ▸ h) (not_unassignedOpcode_bits o)

/-- The length a header announces, by its opcode (spec/30_encoding.md R140, R149). -/
theorem commandLength_of_none {w : Word} (ho : opcodeOf (opField w) = none) : commandLength w = 1 := by
  simp only [commandLength, ho]

theorem commandLength_of_some {w : Word} {o : Opcode} (ho : opcodeOf (opField w) = some o) :
    commandLength w = 1 + o.dataWords := by simp only [commandLength, ho]

/-- Fewer words than the header announces decode to no command yet (spec/30_encoding.md R151). -/
theorem decode_of_lt_commandLength {w : Word} {ws : List Word} (h : ws.length + 1 < commandLength w) :
    decode (w :: ws) = .error .needWords := by
  cases ho : opcodeOf (opField w) with
  | none => rw [commandLength_of_none ho] at h; omega
  | some o => rw [commandLength_of_some ho] at h; exact decode_of_short ho (by omega)

/-- Settles O3, by the rules of the decoder for each of its answers. -/
theorem decoderRejectsByName : Obligations.DecoderRejectsByName :=
  ⟨opcodeOf_eq_some_iff, opcodeOf_eq_none_iff, fun _ ws ho => ⟨decode_of_illegal ho ws, commandLength_of_none ho⟩,
    fun _ _ _ ho => ⟨commandLength_of_some ho, decode_of_short ho, decode_of_reserved ho⟩⟩

/-- Settles O4: each list of words is the encoding of its command. -/
theorem writtenOutWordsDecode : Obligations.WrittenOutWordsDecode :=
  ⟨decodeOfEncode .endProg [], decodeOfEncode (.wreg 0x2103#16 0x43FA0000#32) [], decodeOfEncode (.rreg 0x0000#16) [],
    decodeOfEncode (.pload 0x0000#16 0x15010000#32) [], decodeOfEncode (.mov 5 2) [],
    decodeOfEncode (.ldk 7 0x3E800000#32) [], decodeOfEncode (.out 4 5) [], decodeOfEncode (.dlRdo 2 1 0#12) [],
    decodeOfEncode (.fltProc 1 0 0#12) [], decodeOfEncode (.combProc 1 0 0#12) [], decodeOfEncode (.apProc 1 0 0#12) [],
    decodeOfEncode (.fdnProc 4 0 1 5 2) []⟩

end Sys2Proof

namespace Sys2Proof.Machine

open Sys2Proof

/-! #### A waiting sequencer (spec/30_encoding.md R151, R152) -/

/-- The sequencer is stalled exactly while emitted words do not fit in the response queue. -/
theorem stalled_iff (s : State) : stalled s = true ↔ Config.rspDepth < s.rsp.length := by
  simp [stalled, heldWords_eq_drop]

theorem step_of_stalled {s : State} (h : stalled s = true) : step s = .next s := by
  rw [step, if_pos h]

/-- With no whole command in the host stream a step in the host context changes nothing, stalled or not. -/
theorem step_of_needWords {s : State} (hp : s.pc = none) (hd : decode s.hostIn = .error .needWords) :
    step s = .next s := by
  have hf : fetchCommand s = .hold := by simp only [fetchCommand, hd]
  simp only [step, hp, hf, ite_self]

/-- Settles O8: a stalled step stops before the fetch, and a fetch without a whole command holds. -/
theorem waitingStepChangesNothing : Obligations.WaitingStepChangesNothing := fun s =>
  ⟨stalled_iff s, step_of_stalled, fun hp hin => step_of_needWords hp (hin ▸ rfl),
    fun _ _ hp hin hlen => step_of_needWords hp (hin ▸ decode_of_lt_commandLength hlen)⟩

end Sys2Proof.Machine
end

section
/-! ### Reserved bits of a header (spec/30_encoding.md R147) -/

namespace Sys2Proof

/-- A header of an assigned opcode with a 1 in a field that the format reserves is RESERVED_FIELD, once its data words
are there. -/
theorem decode_of_reserved_bits (o : Opcode) {start len : Nat} (hfield : start + len ≤ 24)
    (hmask : o.mask.extractLsb' start len = BitVec.allOnes len) {w : Word} {ws : List Word} (hop : opField w = o.bits)
    (hlen : o.dataWords ≤ ws.length) (hone : w.extractLsb' start len ≠ 0#len) :
    decode (w :: ws) = .error (.reservedField w) := by
  refine decode_of_reserved (hop ▸ opcodeOf_bits o) hlen fun hfix => hone ?_
  rw [← (o.fix_eq_self_iff w).mpr hfix]
  exact Opcode.extract_fix_fixed hfield hmask

end Sys2Proof
end

section
/-! ### INIT (spec/40_sequencer.md R183) -/

namespace Sys2Proof.Machine

open Sys2Proof Sys2Proof.Safety

/-! #### CAPCALC -/

/-- PHYS by the number of the line (spec/00_scope.md R5, R6). -/
theorem phys_eq (l : Fin 44) :
    phys l = if l.val < 4 then 32768 else if l.val < 20 then 8192 else if l.val < 36 then 4096 else 16384 := by
  revert l; decide

/-- CAPCALC bounds the words asked for to [2, PHYS] (spec/10_state.md R51). -/
theorem capCalc_eq (fs ms : F32) (l : Fin 44) {n : Nat}
    (hn : F32.ceilNat (F32.div (F32.mul ms fs) F32.c1000) + 1 = n) :
    capCalc fs l ms = (max 2 (min n (phys l)), decide (phys l < n)) := by
  simp only [capCalc, hn]
  congr 1
  split <;> split <;> omega

/-! #### What INIT makes of each unit -/

theorem initProc_line (s : State) (l : Fin 44) :
    (initProc s).lines[l] =
      { s.lines[l] with
        cap := (capCalc s.fs l s.lines[l].maxMs).1
        len := (lenCalc s.fs s.fdn.room l s.lines[l].lenMs (capCalc s.fs l s.lines[l].maxMs).1).1
        wptr := 0
        buf := [] } := by
  simp only [initProc_lines, recalcLens_line, lenOf, realloc_line, realloc_fs, realloc_fdn, reallocLine, if_true]

theorem initProc_comb (s : State) (c : Fin 16) :
    (initProc s).combs[c] =
      { s.combs[c] with
        fb :=
          if NegativeUnit s.banks[bankOf c].signMode c then
            F32.neg (capGain (decayLaw s.fs (initProc s).lines[cbl c].len s.banks[bankOf c].decay))
          else capGain (decayLaw s.fs (initProc s).lines[cbl c].len s.banks[bankOf c].decay) } := by
  rw [initProc_lines, initProc, recalcMods_combs, recalcFdnGains_combs, recalcCombs_gain, if_pos rfl]
  simp only [clearFilters_combs, clearFilters_banks, clearFilters_fs, clearFilters_lines, recalcCoefs_combs,
    recalcCoefs_banks, recalcCoefs_fs, recalcCoefs_lines, recalcLens_combs, recalcLens_banks, recalcLens_fs,
    realloc_combs, realloc_banks, realloc_fs]

theorem initProc_fdn (s : State) :
    (initProc s).fdn = { s.fdn with g := (initProc s).fdn.g, mods := modCalc s.fs s.fdn.modDepth } := by
  rw [initProc, recalcMods_fdn, recalcFdnGains_fdn]
  simp only [recalcFdnGains_fs, recalcCombs_fs, recalcCombs_fdn, clearFilters_fs, clearFilters_fdn, recalcCoefs_fs,
    recalcCoefs_fdn, recalcLens_fs, recalcLens_fdn, realloc_fs, realloc_fdn]

theorem initProc_fdnGain (s : State) (i : Fin 8) :
    (initProc s).fdn.g[i] = capGain (decayLaw s.fs (initProc s).lines[fdl i].len s.fdn.decay) := by
  rw [initProc_lines, initProc, recalcMods_fdn, recalcFdnGains_law, if_pos rfl]
  simp only [recalcCombs_fs, recalcCombs_lines, recalcCombs_fdn, clearFilters_fs, clearFilters_lines, clearFilters_fdn,
    recalcCoefs_fs, recalcCoefs_lines, recalcCoefs_fdn, recalcLens_fs, recalcLens_fdn, realloc_fs, realloc_fdn]

/-- INIT changes only the units that it recomputes, and CLAMP. -/
theorem initProc_frame (s : State) :
    { initProc s with lines := s.lines, filters := s.filters, combs := s.combs, fdn := s.fdn, clamp := s.clamp } =
      s := by
  simp only [initProc, recalcMods, recalcFdnGains, recalcCombs, clearFilters, recalcCoefs, recalcLens, realloc]

/-- INIT sets CLAMP when a capacity, a length, a cutoff or a decay law clamps. -/
theorem initProc_clamp (s : State) :
    (initProc s).clamp = true ↔
      s.clamp = true ∨ (∃ l : Fin 44, (capCalc s.fs l s.lines[l].maxMs).2 = true) ∨
      (∃ l : Fin 44, (lenCalc s.fs s.fdn.room l s.lines[l].lenMs (initProc s).lines[l].cap).2 = true) ∨
      (∃ f : Fin 32, (coefCalc s.fs s.filters[f]).2 = true) ∨
      (∃ c : Fin 16,
        F32.lt F32.gmax (decayLaw s.fs (initProc s).lines[cbl c].len s.banks[bankOf c].decay) = true) ∨
      ∃ i : Fin 8, F32.lt F32.gmax (decayLaw s.fs (initProc s).lines[fdl i].len s.fdn.decay) = true := by
  have hlen : ∀ l : Fin 44,
      lenOf (realloc s) l = lenCalc s.fs s.fdn.room l s.lines[l].lenMs (initProc s).lines[l].cap := fun l => by
    rw [lenOf, initProc_line, realloc_line, realloc_fs, realloc_fdn]
    rfl
  have hclamp : (initProc s).clamp =
      (recalcFdnGains (fun _ => true) (recalcCombs (fun _ => true) (clearFilters (recalcCoefs (fun _ => true)
        (recalcLens (fun _ => true) (realloc s)))))).clamp := recalcMods_clamp _
  rw [hclamp, recalcFdnGains_clamps, recalcCombs_clamps, clearFilters_clamp, recalcCoefs_clamp, recalcLens_clamp,
    realloc_clamp]
  simp only [recalcCombs_fs, recalcCombs_lines, recalcCombs_fdn, clearFilters_fs, clearFilters_lines, clearFilters_fdn,
    clearFilters_banks, recalcCoefs_fs, recalcCoefs_lines, recalcCoefs_fdn, recalcCoefs_banks, recalcLens_fs,
    recalcLens_fdn, recalcLens_banks, recalcLens_filters, realloc_fs, realloc_fdn, realloc_banks, realloc_filters,
    hlen, true_and, or_assoc, initProc_lines]

/-- Settles O34: unit by unit, what the steps of INIT make of the state. -/
theorem initCommand : Obligations.InitCommand := by
  refine ⟨fun s hp => ⟨initProc s, execInit_host hp, initProc_frame s, initProc_line s, initProc_filter s,
    initProc_comb s, initProc_fdn s, initProc_fdnGain s, initProc_clamp s⟩, fun fs ms l => ?_, rfl,
    fun w ws hop => decode_of_reserved_bits .init (by decide) rfl hop (Nat.zero_le _)⟩
  intro p _ hsign n limit
  have hn : F32.ceilNat p + 1 = n := by rw [F32.ceilNat, if_neg (Bool.eq_false_iff.mp hsign)]
  rw [capCalc_eq fs ms l hn, phys_eq]

end Sys2Proof.Machine
end

section
/-! ### The sequencer: one step, and one pass of a frame program (spec/40_sequencer.md R180, R186) -/

namespace Sys2Proof.Machine

open Sys2Proof

/-! #### A command of the host stream -/

/-- What follows the words of a decoded command. -/
theorem eq_drop_of_decode {vs rest : List Word} {i : Instr} (h : decode vs = .ok (i, rest)) :
    rest = vs.drop i.length := by
  obtain ⟨o, w, ws, rfl, -, -, rfl, rfl⟩ := exists_of_decode_eq_ok h
  rw [Instr.length, opcode_build, Nat.add_comm, List.drop_succ_cons]

/-- Every command answers a next state, in both contexts (spec/60_exceptions.md R405). -/
theorem exists_exec (i : Instr) (s : State) : ∃ t, exec i s = .next t :=
  (HostBlind.exec i s).imp fun _ h => h.1

/-- The fetch takes the words of a decoded command off the host stream. -/
theorem fetchCommand_of_decode {s : State} {i : Instr} {rest : List Word} (h : decode s.hostIn = .ok (i, rest)) :
    fetchCommand s = .run i { s with hostIn := rest } := by
  simp only [fetchCommand, h, consume, eq_drop_of_decode h]

/-- Settles O6: the fetched command is executed, and the end of a command re-evaluates IRQ. -/
theorem stepRunsHostCommand : Obligations.StepRunsHostCommand := by
  intro s i rest hp hst hd
  obtain ⟨t, ht⟩ := exists_exec i { s with hostIn := rest }
  refine ⟨t, ht, ?_⟩
  rw [step_of_run hp hst (fetchCommand_of_decode hd), ht]
  rfl

/-! #### One pass of a frame program, by what the words at the PC decode to -/

theorem runProgram_of_decode {s t : State} {p : Nat} {i : Instr} {rest : List Word} (hp : s.pc = some p)
    (hd : decode (programWords p s) = .ok (i, rest)) (ht : exec i s = .next t) (n : Nat) :
    runProgram (n + 1) s = runProgram n (updateIrq (advancePc i.length t)) := by
  rw [runProgram_some hp, programStep]
  simp only [hd, executeInProgram_eq_exec hp, ht, andThen_next]

theorem runProgram_of_reserved {s : State} {p : Nat} {w : Word} (hp : s.pc = some p)
    (hd : decode (programWords p s) = .error (.reservedField w)) (n : Nat) :
    runProgram (n + 1) s = runProgram n (updateIrq (failInProgram (programReservedCause w) w s)) := by
  rw [runProgram_some hp, programStep]
  simp only [hd, andThen_next]

/-- Words that run past PMEM end the run (R186). -/
theorem runProgram_of_needWords {s : State} {p : Nat} (hp : s.pc = some p)
    (hd : decode (programWords p s) = .error .needWords) (n : Nat) :
    runProgram (n + 1) s = .next (updateIrq (overrun p s)) := by
  rw [runProgram_some hp, programStep]
  simp only [hd, andThen_next]
  exact runProgram_none rfl n

/-- Settles O7: a pass is exec of the decoded command, and every command answers a next state. -/
theorem runProgramRunsTheDecodedCommand : Obligations.RunProgramRunsTheDecodedCommand := by
  refine ⟨fun n s p i rest hp hd => ?_, fun n s hp => runProgram_none hp n⟩
  obtain ⟨t, ht⟩ := exists_exec i s
  exact ⟨t, ht, runProgram_of_decode hp hd ht n⟩

/-! #### The end of program memory -/

theorem programWords_at_end (s : State) : programWords 256 s = [] :=
  List.drop_eq_nil_of_le (by simp)

/-- Below PMEM_DEPTH the words start with the word at the PC. -/
theorem programWords_eq_cons (s : State) {p : Nat} (h : p < 256) :
    programWords p s = s.pmem[p] :: programWords (p + 1) s := by
  rw [programWords, programWords, List.drop_eq_getElem_cons (by simpa using h), Vector.getElem_toList]

theorem programWords_length (p : Nat) (s : State) : (programWords p s).length = 256 - p := by
  simp [programWords]

/-- Settles O10: with no word, or too few words, left from the PC on, the pass is an overrun. -/
theorem programOverrunEndsTheFrame : Obligations.ProgramOverrunEndsTheFrame := by
  intro n s p hp
  refine ⟨fun hend => ?_, fun h hcut => ?_⟩
  · subst hend
    rw [runProgram_of_needWords hp (by rw [programWords_at_end]; rfl), overrun, programWords_at_end]
    rfl
  · have hshort : (programWords (p + 1) s).length + 1 < commandLength s.pmem[p] := by
      rw [programWords_length]; omega
    have hd : decode (programWords p s) = .error .needWords := by
      rw [programWords_eq_cons s h]
      exact decode_of_lt_commandLength hshort
    rw [runProgram_of_needWords hp hd, overrun, programWords_eq_cons s h]
    rfl

end Sys2Proof.Machine
end

section
/-! ### Control and sample-register commands (spec/40_sequencer.md R187 to R195) -/

namespace Sys2Proof.Machine

open Sys2Proof

/-! #### A reserved bit in a frame program -/

theorem commandLength_of_opField {o : Opcode} {w : Word} (hop : opField w = o.bits) :
    commandLength w = 1 + o.dataWords := commandLength_of_some (hop ▸ opcodeOf_bits o)

/-- In a frame program a reserved bit in a command that is not host-only is RESERVED_FIELD, and the run goes on after
the command's words (spec/60_exceptions.md R401, R405). -/
theorem runProgram_of_reserved_notHostOnly {o : Opcode} {s : State} {p : Nat} {w : Word} (hp : s.pc = some p)
    (hop : opField w = o.bits) (ho : o.hostOnly = false) (hd : decode (programWords p s) = .error (.reservedField w))
    (n : Nat) :
    runProgram (n + 1) s =
      runProgram n (updateIrq { recordError .reservedField w s with pc := some (p + (1 + o.dataWords)) }) := by
  have hcause : programReservedCause w = .reservedField := by
    rw [programReservedCause, headerHostOnly, hop, opcodeOf_bits]
    simp only [ho, Bool.false_eq_true, if_false]
  rw [runProgram_of_reserved hp hd, hcause, failInProgram, advancePc, recordError_pc, hp,
    commandLength_of_opField hop]
  rfl

/-! #### END and NOP -/

/-- END ends the run, and nothing after it is fetched (R187). -/
theorem runProgram_of_end {s : State} {p : Nat} {rest : List Word} (hp : s.pc = some p)
    (hw : programWords p s = encode .endProg ++ rest) (n : Nat) :
    runProgram (n + 1) s = .next { s with pc := none, irq := irqLevel s } := by
  rw [runProgram_of_decode (i := .endProg) (t := { s with pc := none }) hp (hw ▸ decodeOfEncode .endProg rest) rfl]
  exact runProgram_none rfl n

/-- NOP advances the PC (R188). -/
theorem runProgram_of_nop {s : State} {p : Nat} {rest : List Word} (hp : s.pc = some p)
    (hw : programWords p s = encode .nop ++ rest) (n : Nat) :
    runProgram (n + 1) s = runProgram n { s with pc := some (p + 1), irq := irqLevel s } := by
  rw [runProgram_of_decode (i := .nop) (t := s) hp (hw ▸ decodeOfEncode .nop rest) rfl, advancePc, hp]
  rfl

/-- Settles O13: the pass of each of the two commands, and of a header with one of their reserved bits. -/
theorem endAndNopCommands : Obligations.EndAndNopCommands := by
  have hend {w : Word} (ws : List Word) (hone : w.extractLsb' 0 24 ≠ 0#24) (hop : opField w = 0x00#8) :
      decode (w :: ws) = .error (.reservedField w) :=
    decode_of_reserved_bits .endProg (by decide) rfl hop (Nat.zero_le _) hone
  have hnop {w : Word} (ws : List Word) (hone : w.extractLsb' 0 24 ≠ 0#24) (hop : opField w = 0x01#8) :
      decode (w :: ws) = .error (.reservedField w) :=
    decode_of_reserved_bits .nop (by decide) rfl hop (Nat.zero_le _) hone
  refine ⟨fun s hp => ?_, fun s => rfl, fun n s p rest hp => ⟨fun hw => runProgram_of_end hp hw n,
    fun hw => runProgram_of_nop hp hw n, fun w hw hop hone => ?_⟩, rfl, rfl,
    fun w ws hone => ⟨hend ws hone, hnop ws hone⟩⟩
  · rw [exec, execEndProg, ← hp]
  · replace hw : programWords p s = w :: rest := hw
    rcases hop with hop | hop
    · exact runProgram_of_reserved_notHostOnly (o := .endProg) hp hop rfl (hw ▸ hend rest hone hop) n
    · exact runProgram_of_reserved_notHostOnly (o := .nop) hp hop rfl (hw ▸ hnop rest hone hop) n

/-! #### The sample registers -/

/-- The number of a header with register fields and no unit field, as the match column and its fields
(spec/30_encoding.md R141, R146). -/
theorem headerOf_eq_pattern_add (o : Opcode) (a b c : XReg) :
    headerOf o a b c 0#12 =
      BitVec.ofNat 32 (o.pattern.toNat + a.val * 2 ^ 20 + b.val * 2 ^ 16 + c.val * 2 ^ 12) := by
  have hpattern : o.pattern.toNat = o.bits.toNat * 2 ^ 24 := by cases o <;> rfl
  rw [headerOf, hpattern, BitVec.toNat_zero, Nat.add_zero]

/-- Settles O14: each meaning writes one register, and the bits below its fields are reserved. -/
theorem movAndLdkCommands : Obligations.MovAndLdkCommands := by
  refine ⟨fun _ _ _ => rfl, fun _ _ _ => rfl, fun xa xb k => ⟨?_, ?_⟩, fun _ _ _ =>
    ⟨fun hop => decode_of_reserved_bits .mov (by decide) rfl hop (Nat.zero_le _),
      fun hop => decode_of_reserved_bits .ldk (by decide) rfl hop (Nat.le_add_left _ _)⟩⟩
  · simp [encode, Instr.header, Instr.data, headerOf_eq_pattern_add, Opcode.pattern, Opcode.bits]
  · simp [encode, Instr.header, Instr.data, headerOf_eq_pattern_add, Opcode.pattern, Opcode.bits]

/-- Settles O15: each meaning writes S of one operation, and the bits below XC are reserved. -/
theorem addSubMulCommands : Obligations.AddSubMulCommands := by
  refine ⟨fun _ _ _ _ => ⟨rfl, rfl, rfl⟩, fun _ _ _ => ⟨?_, ?_, ?_⟩, fun w ws hop => ?_⟩
  case refine_1 | refine_2 | refine_3 => exact congrArg (· :: []) (headerOf_eq_pattern_add _ _ _ _)
  rcases hop with hop | hop | hop
  · exact decode_of_reserved_bits .add (by decide) rfl hop (Nat.zero_le _)
  · exact decode_of_reserved_bits .sub (by decide) rfl hop (Nat.zero_le _)
  · exact decode_of_reserved_bits .mul (by decide) rfl hop (Nat.zero_le _)

/-- Settles O16: IN writes FIN_R last; the bits of the fields that OUT does not have are reserved. -/
theorem inAndOutCommands : Obligations.InAndOutCommands := by
  refine ⟨fun _ _ _ => rfl, fun _ _ _ => rfl, fun _ _ _ => ⟨?_, ?_⟩, fun w ws =>
    ⟨fun hop => decode_of_reserved_bits .inp (by decide) rfl hop (Nat.zero_le _), fun hop hone => ?_⟩⟩
  · simp [encode, Instr.header, Instr.data, headerOf_eq_pattern_add, Opcode.pattern, Opcode.bits]
  · simp [encode, Instr.header, Instr.data, headerOf_eq_pattern_add, Opcode.pattern, Opcode.bits]
  · rcases hone with hone | hone
    · exact decode_of_reserved_bits .out (by decide) rfl hop (Nat.zero_le _) hone
    · exact decode_of_reserved_bits .out (by decide) rfl hop (Nat.zero_le _) hone

end Sys2Proof.Machine
end

section
/-! ### Host commands (spec/40_sequencer.md R181 to R185) -/

namespace Sys2Proof.Machine

open Sys2Proof

/-! #### WREG -/

theorem exec_wreg_unmapped {a : BitVec 16} {s : State} (hp : s.pc = none) (ha : regOf a = none) (v : Word) :
    exec (.wreg a v) s = .next (raiseError .regAddr (.wreg a v) s) := by
  rw [exec, execWreg, hostOnly_host hp, ha]

theorem exec_wreg_readOnly {a : BitVec 16} {r : Reg} {s : State} (hp : s.pc = none) (ha : regOf a = some r)
    (hro : regAccess r = .ro) (v : Word) : exec (.wreg a v) s = .next (raiseError .regRo (.wreg a v) s) := by
  rw [exec, execWreg, hostOnly_host hp, ha]
  simp only [hro, if_true]

theorem exec_wreg_illegal {a : BitVec 16} {r : Reg} {v : Word} {s : State} (hp : s.pc = none) (ha : regOf a = some r)
    (hro : regAccess r ≠ .ro) (hv : regLegal r v = false) :
    exec (.wreg a v) s = .next (raiseError .badValue (.wreg a v) s) := by
  rw [exec, execWreg, hostOnly_host hp, ha]
  simp only [hro, hv, Bool.false_eq_true, if_false]

/-- A legal set of one number is a legal set of one word. -/
theorem regLegal_fdnRoomSel (v : Word) : regLegal .fdnRoomSel v = true ↔ v = 0#32 := by
  rw [regLegal, decide_eq_true_iff]
  exact BitVec.toNat_eq (y := 0#32) |>.symm

/-- Settles O32: one check after the other; a legal write names its register by that register's own address. -/
theorem wregChecks : Obligations.WregChecks := by
  refine ⟨fun a v s hp => ⟨fun ha => exec_wreg_unmapped hp ha v, fun r ha => ⟨fun hro => exec_wreg_readOnly hp ha hro v,
    exec_wreg_illegal hp ha, fun hro hv => ?_⟩⟩, fun _ _ => rfl,
    fun _ _ _ hop => decode_of_reserved_bits .wreg (by decide) rfl hop (Nat.le_add_left _ _),
    fun v => ⟨decide_eq_true_iff, fun _ => decide_eq_true_iff, fun _ => decide_eq_true_iff, decide_eq_true_iff,
      fun _ => decide_eq_true_iff, fun _ => decide_eq_true_iff, regLegal_fdnRoomSel v, decide_eq_true_iff⟩⟩
  exact regAddr_of_regOf ha ▸ exec_wreg r hp hro hv

/-! #### RREG -/

theorem exec_rreg {a : BitVec 16} {r : Reg} {s : State} (hp : s.pc = none) (ha : regOf a = some r) :
    exec (.rreg a) s = .next (emit (readReg r s) s) := by
  rw [exec, execRreg, hostOnly_host hp, ha]

/-- An error recorded after an emit is the one recorded before it, as the record does not see the response queue. -/
theorem recordError_emit (k : Cause) (w v : Word) (s : State) :
    recordError k w (emit v s) = { recordError k w s with rsp := s.rsp ++ [v] } := by
  unfold recordError
  rw [emit_err]
  split <;> rfl

theorem exec_rreg_unmapped {a : BitVec 16} {s : State} (hp : s.pc = none) (ha : regOf a = none) :
    exec (.rreg a) s = .next { recordError .regAddr (Instr.header (.rreg a)) s with rsp := s.rsp ++ [0#32] } := by
  rw [exec, execRreg, hostOnly_host hp, ha]
  exact congrArg _ (recordError_emit ..)

/-- Two flags in bits 0 and 1 of a word (spec/10_state.md R38, R40). -/
theorem flags_word (a b : Bool) :
    (if a then 1#32 else 0#32) ||| (if b then 2#32 else 0#32) =
      BitVec.ofNat 32 ((if a then 1 else 0) + if b then 2 else 0) := by
  revert a b; decide

theorem readReg_cause {s : State} {k : Cause} (h : s.cause = some k) : readReg .cause s = causeCode k := by
  simp only [readReg, h]

theorem readReg_cause_none {s : State} (h : s.cause = none) : readReg .cause s = 0#32 := by
  simp only [readReg, h]

theorem signModeCode_eq (m : SignMode) : signModeCode m = if m = .alternate then 0#32 else 1#32 := by cases m <;> rfl

theorem apModeCode_eq (m : ApMode) : apModeCode m = if m = .canonical then 0#32 else 1#32 := by cases m <;> rfl

theorem mixModeCode_eq (m : MixMode) :
    mixModeCode m = if m = .first then 0#32 else if m = .split then 1#32 else 2#32 := by cases m <;> rfl

theorem readReg_fdnRoomSel (s : State) : (readReg .fdnRoomSel s).toNat = s.fdn.roomSel.toNat :=
  BitVec.toNat_setWidth_of_le (by decide)

/-- Settles O33. A failed read emits its word before it records the error, which is the same. -/
theorem rregCommand : Obligations.RregCommand := by
  refine ⟨fun a s hp => ⟨fun r ha => exec_rreg hp ha, fun ha => exec_rreg_unmapped hp ha⟩, fun _ => rfl,
    fun _ _ hop => decode_of_reserved_bits .rreg (by decide) rfl hop (Nat.zero_le _), fun s => ?_⟩
  refine ⟨⟨rfl, rfl, rfl, rfl, rfl⟩, flags_word _ _, flags_word _ _, ⟨readReg_cause_none, readReg_cause, readReg_cause,
    readReg_cause, readReg_cause, readReg_cause, readReg_cause, readReg_cause, readReg_cause⟩,
    ⟨rfl, rfl, rfl, rfl, rfl, rfl, rfl, rfl⟩, fun _ => rfl, fun _ => rfl, fun _ => ⟨rfl, rfl, rfl, rfl, rfl⟩,
    fun _ => ⟨rfl, rfl, rfl, rfl, rfl, rfl, rfl, rfl, rfl, rfl⟩, fun _ => ⟨rfl, rfl⟩,
    fun b => ⟨rfl, rfl, signModeCode_eq _, rfl⟩, fun ch => ⟨rfl, apModeCode_eq _⟩,
    ⟨rfl, readReg_fdnRoomSel s, rfl, rfl, mixModeCode_eq _, rfl, rfl, rfl, rfl⟩, fun _ => rfl, by decide⟩

/-! #### PLOAD and FRAME -/

theorem exec_pload {a : BitVec 16} {s : State} (hp : s.pc = none) (h : a.toNat < 256) (p : Word) :
    exec (.pload a p) s = .next { s with pmem := s.pmem.set a.toNat p } := by
  rw [exec, execPload, hostOnly_host hp, pmemIndexOf, dif_pos h]

theorem exec_pload_outOfRange {a : BitVec 16} {s : State} (hp : s.pc = none) (h : 256 ≤ a.toNat) (p : Word) :
    exec (.pload a p) s = .next (raiseError .unitRange (.pload a p) s) := by
  rw [exec, execPload, hostOnly_host hp, pmemIndexOf, dif_neg (Nat.not_lt.mpr h)]

/-- FRAME is the run of its program, which answers a next state, and then the count and the two words (R185). -/
theorem exec_frame {s : State} (hp : s.pc = none) (l r : Word) :
    ∃ u, runProgram frameFuel (startFrame l r s) = .next u ∧ exec (.frame l r) s = .next (finishFrame u) := by
  obtain ⟨u, hu, -⟩ := HostBlind.runProgram frameFuel (startFrame l r s)
  exact ⟨u, hu, by rw [execFrame_host hp, completeFrame, hu, andThen_next]⟩

/-- The end of a FRAME, its two words emitted together. -/
theorem finishFrame_eq (u : State) :
    finishFrame u = { u with pc := none, frameCnt := u.frameCnt + 1#32, rsp := u.rsp ++ [u.foutL, u.foutR] } := by
  simp [finishFrame, emit]

/-- Settles O35: PLOAD by the range of its address, FRAME by its run. -/
theorem ploadAndFrameCommands : Obligations.PloadAndFrameCommands := by
  refine ⟨fun a p s hp => ⟨fun h => exec_pload hp h p, fun h => exec_pload_outOfRange hp h p⟩, fun l r s hp => ?_,
    fun _ _ _ _ => ⟨rfl, rfl⟩, fun _ _ _ _ =>
    ⟨fun hop => decode_of_reserved_bits .pload (by decide) rfl hop (Nat.le_add_left _ _),
      fun hop => decode_of_reserved_bits .frame (by decide) rfl hop (Nat.le_add_left _ _)⟩⟩
  obtain ⟨u, hu, hexec⟩ := exec_frame hp l r
  exact ⟨u, hu, finishFrame_eq u ▸ hexec⟩

end Sys2Proof.Machine
end

section
/-! ### Binary32: results that are exact (spec/00_scope.md R9, R14)

A value that a pattern stands for is its own nearest value, so rounding keeps it. -/

namespace Sys2Proof.F32

open Sys2Proof Sys2Proof.Safety

/-! #### Zeros and signs -/

theorem isFinite_neg (v : F32) : isFinite (neg v) = isFinite v := by rw [isFinite, isFinite, expo_neg]

theorem isZero_iff_val (v : F32) : isZero v = true ↔ val v = 0 := by
  refine ⟨fun hz => ?_, fun hv => ?_⟩
  · obtain ⟨he, hf⟩ : expo v = 0 ∧ frac v = 0 := by simpa [isZero] using hz
    rw [val_eq_signed, mag, if_pos he, hf, signed_zero]
  · by_contra hz
    have hpos := mag_pos (Bool.eq_false_of_not_eq_true hz)
    rw [← natAbs_val, hv] at hpos
    exact absurd hpos (by decide)

theorem val_eq_mag {v : F32} (h : 0 ≤ val v) : val v = mag v := by
  rw [← natAbs_val, Int.natAbs_of_nonneg h]

/-! #### What a pattern can stand for -/

/-- At a full 24-bit number, or at exponent shift 0, the pattern's bits are written down. -/
theorem exists_val_eq_of_full {k m : Nat} (hk : k ≤ 252) (hm : m ≤ 2 ^ 24) (hfull : k = 0 ∨ 2 ^ 23 ≤ m) :
    ∃ q : F32, isFinite q = true ∧ val q = (m * 2 ^ k : Nat) := by
  have hbits : k * 2 ^ 23 + m < 2 ^ 31 := by omega
  refine ⟨pack false (k * 2 ^ 23 + m), isFinite_pack (by omega) _, ?_⟩
  rw [val_eq_signed, isNeg_pack hbits, mag_pack hm hfull hbits, signed, if_neg Bool.false_ne_true]

/-- A number up to 2^24 of steps of 2^k units is the value of a pattern: fewer than 2^23 of them are twice as many steps
of half the size. -/
theorem exists_val_eq {k m : Nat} (hk : k ≤ 252) (hm : m ≤ 2 ^ 24) :
    ∃ q : F32, isFinite q = true ∧ val q = (m * 2 ^ k : Nat) := by
  induction k generalizing m with
  | zero => exact exists_val_eq_of_full hk hm (.inl rfl)
  | succ k ih =>
    rcases Nat.lt_or_ge m (2 ^ 23) with hlow | hfull
    · have hdouble : m * 2 ^ (k + 1) = 2 * m * 2 ^ k := by ring
      rw [hdouble]
      exact ih (by omega) (by omega)
    · exact exists_val_eq_of_full hk hm (.inr hfull)

/-- No value reaches the point from which rounding answers an infinity. -/
theorem mag_lt_overflow {v : F32} (h : isFinite v = true) : mag v < (2 ^ 25 - 1) * 2 ^ 252 := by
  have hlt := mag_lt_of_isFinite h
  rcases mag_steps v 253 with ⟨j, hj⟩ | ⟨-, hlow⟩ <;> omega

/-- Rounding keeps a value that a pattern stands for. -/
theorem exact_of_nearestEven {num : Int} {r q : F32} (h : NearestEven num 1 r) (hq : isFinite q = true)
    (hval : val q = num) : isFinite r = true ∧ val r = num := by
  have hlt := mag_lt_overflow hq
  rw [← natAbs_val, hval] at hlt
  unfold NearestEven at h
  rw [if_neg (by omega)] at h
  obtain ⟨hr, hnear⟩ := h
  obtain ⟨hle, -⟩ := hnear q hq
  exact ⟨hr, by omega⟩

/-- f32(n) is exact up to 2^24 (R14). -/
theorem ofNat_exact {n : Nat} (h : n ≤ 2 ^ 24) : isFinite (ofNat n) = true ∧ val (ofNat n) = (n : Int) * 2 ^ 149 := by
  obtain ⟨q, hq, hval⟩ := exists_val_eq (k := 149) (by decide) h
  have hnear : NearestEven (n * 2 ^ 149 : Nat) 1 (ofNat n) := nearestEven_pack false _ one_pos
  obtain ⟨hfin, hexact⟩ := exact_of_nearestEven hnear hq hval
  exact ⟨hfin, by rw [hexact]; push_cast; rfl⟩

/-- A value of at least 1.0 less its integer part is exact: it is a whole number of steps of 2^126 units, as the value is,
and less than 2^23 of them. -/
theorem val_sub_floor {v : F32} (hv : isFinite v = true) (hone : 2 ^ 149 ≤ val v) (hi : floorNat v ≤ 2 ^ 24) :
    val (sub v (ofNat (floorNat v))) = val v - (floorNat v : Int) * 2 ^ 149 := by
  obtain ⟨hfin, hval⟩ := ofNat_exact hi
  have hmag : val v = mag v := val_eq_mag (by omega)
  obtain ⟨j, hj⟩ : ∃ j, mag v = j * 2 ^ 126 := (mag_steps v 126).resolve_right (by omega)
  obtain ⟨q, hq, hqval⟩ := exists_val_eq (k := 126) (m := j - floorNat v * 2 ^ 23) (by decide) (by rw [floorNat]; omega)
  have hnear := (addRoundsToNearestEven v (neg (ofNat (floorNat v))) hv ((isFinite_neg _).trans hfin)).1
  rw [val_neg, hval] at hnear
  refine (exact_of_nearestEven hnear hq ?_).2
  rw [hqval, hmag, floorNat]
  omega

end Sys2Proof.F32
end

section
/-! ### Delay lines: the tap range, taps and writes (spec/41_delay_line.md R230 to R233) -/

namespace Sys2Proof.Machine

open Sys2Proof Sys2Proof.Safety

/-! #### The tap range -/

/-- The legal tap range is a clamp (R233). -/
theorem clampD_eq_clampR (ln : Line) (d : F32) : clampD ln d = F32.clampR d F32.one (F32.ofNat (ln.cap - 1)) := rfl

/-- Settles O17: the legal tap range is clampR from 1.0 to f32(DL_CAP - 1). -/
theorem clampDRule : Obligations.ClampDRule := by
  intro ln d
  rw [clampD_eq_clampR]
  refine ⟨F32.clampR_of_low, fun hnum hlow hhigh => ?_, F32.clampR_of_inRange⟩
  simp [F32.clampR, hnum, hlow, hhigh]

/-- A clamped delay lies between 1 and DL_CAP - 1 samples (R233). -/
theorem clampD_bounds {ln : Line} (d : F32) (hlo : 2 ≤ ln.cap) (hhi : ln.cap ≤ 32768) :
    F32.isFinite (clampD ln d) = true ∧ 2 ^ 149 ≤ F32.val (clampD ln d) ∧
    F32.val (clampD ln d) ≤ (ln.cap - 1 : Nat) * 2 ^ 149 := by
  have hone : F32.isFinite F32.one = true ∧ F32.val F32.one = 2 ^ 149 := by decide
  obtain ⟨htop, hvtop⟩ := F32.ofNat_exact (n := ln.cap - 1) (by omega)
  obtain ⟨hnum, hle⟩ := F32.one_le_ofNat (n := ln.cap - 1) (by omega)
  have hin := F32.inRange_clampR d (F32.isNaN_of_isFinite hone.1) hnum hle
  rw [← clampD_eq_clampR] at hin
  have ⟨hd, hlow, hhigh⟩ := hin
  rw [F32.lt_eq_false_iff hd (F32.isNaN_of_isFinite hone.1), hone.2] at hlow
  rw [F32.lt_eq_false_iff hnum hd, hvtop] at hhigh
  exact ⟨F32.isFinite_of_inRange hone.1 htop hin, hlow, hhigh⟩

/-! #### Taps -/

/-- The index of the word i back, in the numbers (R231). -/
theorem wordAgo_eq {ln : Line} {i : Nat} (hi : i ≤ ln.cap) :
    wordAgo ln i = memRead ln.buf ((ln.wptr + ln.cap - i) % ln.cap) := by
  have hidx : ((ln.wptr : Int) - i) % ln.cap = ((ln.wptr + ln.cap - i) % ln.cap : Nat) := by
    rw [Int.natCast_mod, Nat.cast_sub (by omega), Nat.cast_add, add_sub_right_comm, Int.add_emod_right]
  rw [wordAgo, hidx, Int.toNat_natCast]

/-- Settles O18: the clamped delay is a whole number of samples, or lies below the largest delay, and its fraction is
exact. -/
theorem tapReadsBetweenNeighbours : Obligations.TapReadsBetweenNeighbours := by
  refine ⟨fun n => F32.ofNat_exact, fun ln d hlo hhi => ?_⟩
  intro d' i f a b
  obtain ⟨hfin, hlow, hhigh⟩ : F32.isFinite d' = true ∧ 2 ^ 149 ≤ F32.val d' ∧
      F32.val d' ≤ (ln.cap - 1 : Nat) * 2 ^ 149 := clampD_bounds d hlo hhi
  have hmag : F32.val d' = F32.mag d' := F32.val_eq_mag (by omega)
  have hi : i = F32.mag d' / 2 ^ 149 := rfl
  have hbounds : 1 ≤ i ∧ i ≤ ln.cap - 1 := by omega
  have hf : F32.val f = F32.val d' - (i : Int) * 2 ^ 149 := F32.val_sub_floor hfin hlow (by omega)
  have ha : wordAgo ln i = a := wordAgo_eq (by omega)
  have htap : dlRead ln d = if F32.isZero f then wordAgo ln i
      else F32.sanitise (F32.add (wordAgo ln i) (F32.mul f (F32.sub (wordAgo ln (i + 1)) (wordAgo ln i)))) := rfl
  rw [ha] at htap
  refine ⟨hbounds, ⟨hf, by omega, by omega⟩, fun hz => ?_, fun hz => ⟨by omega, ?_⟩⟩
  · rw [htap, if_pos ((F32.isZero_iff_val f).mpr hz)]
  · have hb : wordAgo ln (i + 1) = b := wordAgo_eq (by omega)
    rw [htap, if_neg ((F32.isZero_iff_val f).not.mpr hz), hb]

/-! #### Writes -/

/-- A write stores one word at the cursor and advances it (R232). -/
theorem writesWord_dlWrite (ln : Line) (v : F32) : WritesWord ln (dlWrite ln v) v :=
  ⟨rfl, fun hm => ⟨memWf_memWrite _ _ hm, fun j => memRead_dlWrite v j hm⟩⟩

/-- The cursor advances with a write, so the word i back becomes the word i + 1 back. -/
theorem advanced_index {w c i : Nat} (hw : w < c) (hi : i < c) :
    ((w + 1) % c + c - (i + 1)) % c = (w + c - i) % c := by
  rcases Nat.lt_or_ge (w + 1) c with hlt | hge
  · rw [Nat.mod_eq_of_lt hlt, Nat.add_right_comm, Nat.add_sub_add_right]
  · obtain rfl : c = w + 1 := by omega
    rw [Nat.mod_self, Nat.zero_add, Nat.add_sub_add_right, ← Nat.add_mod_right (w - i)]
    congr 1
    omega

/-- Of the words less than the capacity back only the word 0 back is at the cursor. -/
theorem index_eq_cursor_iff {w c i : Nat} (hw : w < c) (hi : i < c) : (w + c - i) % c = w ↔ i = 0 := by
  rcases Nat.lt_or_ge w i with hlt | hge
  · rw [Nat.mod_eq_of_lt (by omega)]
    omega
  · rw [Nat.sub_add_comm hge, Nat.add_mod_right, Nat.mod_eq_of_lt (by omega)]
    omega

/-- A write makes its value the word 1 back, and each other word one word older. -/
theorem wordAgo_dlWrite {ln : Line} (v : F32) {i : Nat} (hw : ln.wptr < ln.cap) (hm : memWf ln.buf = true)
    (hi : i < ln.cap) :
    wordAgo (dlWrite ln v) (i + 1) = if i = 0 then F32.sanitise v else wordAgo ln i := by
  rw [wordAgo_eq (ln := dlWrite ln v) hi, wordAgo_eq hi.le, dlWrite_wptr, dlWrite_cap, advanced_index hw hi,
    memRead_dlWrite v _ hm]
  simp only [index_eq_cursor_iff hw hi]

/-- After a list of writes the word i back is S of the i-th most recent one, or older than the writes (R230). -/
theorem wordAgo_writes (vs : List F32) {ln : Line} {i : Nat} (hw : ln.wptr < ln.cap) (hm : memWf ln.buf = true)
    (hlo : 1 ≤ i) (hhi : i < ln.cap) :
    wordAgo (vs.foldl dlWrite ln) i =
      if i ≤ vs.length then F32.sanitise (vs.reverse.getD (i - 1) F32.zero) else wordAgo ln (i - vs.length) := by
  induction vs generalizing ln with
  | nil => rw [List.length_nil, if_neg (Nat.not_le.mpr hlo)]; rfl
  | cons v vs ih =>
    have hcap : 0 < ln.cap := by omega
    rw [List.foldl_cons, ih (ln := dlWrite ln v) (Nat.mod_lt _ hcap) (memWf_memWrite _ _ hm) hhi, List.length_cons,
      List.reverse_cons]
    rcases Nat.lt_or_ge vs.length i with hold | hrecent
    · obtain ⟨k, rfl⟩ : ∃ k, i = vs.length + k + 1 := ⟨i - vs.length - 1, by omega⟩
      rw [if_neg (by omega), show vs.length + k + 1 - vs.length = k + 1 by omega, wordAgo_dlWrite v hw hm (by omega)]
      rcases Nat.eq_zero_or_pos k with rfl | hk
      · simp
      · rw [if_neg hk.ne', if_neg (by omega)]
        congr 1
        omega
    · rw [if_pos hrecent, if_pos (by omega), List.getD_append _ _ _ _ (by simp; omega)]

/-- The writes of a list keep the capacity of a line. -/
theorem writes_cap (vs : List F32) (ln : Line) : (vs.foldl dlWrite ln).cap = ln.cap := by
  induction vs generalizing ln with
  | nil => rfl
  | cons v vs ih => exact ih (dlWrite ln v)

/-- Settles O19: by the number of writes; INIT leaves an empty buffer and its cursor at 0. -/
theorem recentWritesAreRead : Obligations.RecentWritesAreRead := by
  refine ⟨fun ln vs i hw hm hlo hhi => ?_, fun s t l hp ht => ?_⟩
  · have hcap := writes_cap vs ln
    have hwords := wordAgo_writes vs hw hm hlo (by omega)
    rw [wordAgo_eq (by omega), wordAgo_eq (by omega), hcap] at hwords
    exact hcap ▸ hwords
  · obtain rfl : initProc s = t := by simpa [execInit_host hp] using ht
    rw [initProc_line]
    exact ⟨rfl, memRead_nil⟩

end Sys2Proof.Machine
end

section
/-! ### Delay-line commands (spec/41_delay_line.md R234 to R237) -/

namespace Sys2Proof.Machine

open Sys2Proof Sys2Proof.Safety

/-! #### The unit field -/

theorem unitOf_of_lt {n : Nat} {u : BitVec 12} (h : u.toNat < n) : unitOf n u = some ⟨u.toNat, h⟩ := dif_pos h

theorem unitOf_of_le {n : Nat} {u : BitVec 12} (h : n ≤ u.toNat) : unitOf n u = none := dif_neg (Nat.not_lt.mpr h)

/-- Another line than the one replaced is unchanged. -/
theorem setLine_other {l k : Fin 44} (h : k.val ≠ l.val) (ln : Line) (s : State) :
    (setLine l ln s).lines[k] = s.lines[k] := by
  rw [setLine_line, if_neg fun hl => h (congrArg Fin.val hl.symm)]

theorem setLine_self (l : Fin 44) (ln : Line) (s : State) : (setLine l ln s).lines[l] = ln := by
  rw [setLine_line, if_pos rfl]

/-! #### Taps -/

theorem exec_dlRd {u : BitVec 12} (h : u.toNat < 44) (xa : XReg) (s : State) :
    exec (.dlRd xa u) s = .next (setX xa (dlRead s.lines[u.toNat] s.lines[u.toNat].len) s) := by
  rw [exec, execDlRd, unitOf_of_lt h]
  rfl

theorem exec_dlRdo {u : BitVec 12} (h : u.toNat < 44) (xa xb : XReg) (s : State) :
    exec (.dlRdo xa xb u) s =
      .next (setX xa (dlRead s.lines[u.toNat] (F32.add s.lines[u.toNat].len s.x[xb])) s) := by
  rw [exec, execDlRdo, unitOf_of_lt h]
  rfl

/-- Settles O20: the tap of the named line goes to the destination, by the range of the unit field. -/
theorem dlRdAndDlRdoCommands : Obligations.DlRdAndDlRdoCommands := by
  refine ⟨fun xa xb u s h => ⟨exec_dlRd h xa s, exec_dlRdo h xa xb s⟩, fun xa xb u s h => ⟨?_, ?_⟩,
    fun xa xb u => ⟨?_, ?_⟩, fun w ws => ⟨fun hop => decode_of_reserved_bits .dlRd (by decide) rfl hop (Nat.zero_le _),
      fun hop => decode_of_reserved_bits .dlRdo (by decide) rfl hop (Nat.zero_le _)⟩⟩
  · rw [exec, execDlRd, unitOf_of_le h]; rfl
  · rw [exec, execDlRdo, unitOf_of_le h]; rfl
  · simp [encode, Instr.header, Instr.data, headerOf, Opcode.bits]
  · simp [encode, Instr.header, Instr.data, headerOf, Opcode.bits]

/-! #### Writes -/

theorem exec_dlWr {u : BitVec 12} (h : u.toNat < 44) (xb : XReg) (s : State) :
    exec (.dlWr xb u) s = .next (setLine ⟨u.toNat, h⟩ (dlWrite s.lines[u.toNat] s.x[xb]) s) := by
  rw [exec, execDlWr, unitOf_of_lt h]
  rfl

theorem exec_dlProc {u : BitVec 12} (h : u.toNat < 44) (xa xb : XReg) (s : State) :
    exec (.dlProc xa xb u) s =
      .next (setX xa (dlRead s.lines[u.toNat] s.lines[u.toNat].len)
        (setLine ⟨u.toNat, h⟩ (dlWrite s.lines[u.toNat] s.x[xb]) s)) := by
  rw [exec, execDlProc, unitOf_of_lt h]
  rfl

/-- A state with one line written differs in that line alone. -/
theorem writesWord_setLine (l : Fin 44) (v : F32) (s : State) :
    (∀ k : Fin 44, k.val ≠ l.val → (setLine l (dlWrite s.lines[l] v) s).lines[k] = s.lines[k]) ∧
    WritesWord s.lines[l] (setLine l (dlWrite s.lines[l] v) s).lines[l] v :=
  ⟨fun _ hk => setLine_other hk _ s, by rw [setLine_self]; exact writesWord_dlWrite _ v⟩

/-- Settles O21: one line is written, by the range of the unit field. -/
theorem dlWrCommand : Obligations.DlWrCommand := by
  refine ⟨fun xb u s h => ⟨_, exec_dlWr h xb s, rfl, writesWord_setLine ⟨u.toNat, h⟩ s.x[xb] s⟩, fun xb u s h => ?_,
    fun xb u => ?_, fun w ws hop hone => ?_⟩
  · rw [exec, execDlWr, unitOf_of_le h]; rfl
  · simp [encode, Instr.header, Instr.data, headerOf, Opcode.bits]
  · rcases hone with hone | hone
    · exact decode_of_reserved_bits .dlWr (by decide) rfl hop (Nat.zero_le _) hone
    · exact decode_of_reserved_bits .dlWr (by decide) rfl hop (Nat.zero_le _) hone

/-- Settles O22: the line is written as by DL.WR, and the tap is of the line before the write. -/
theorem dlProcCommand : Obligations.DlProcCommand := by
  refine ⟨fun xa xb u s h => ⟨_, exec_dlProc h xa xb s, rfl, rfl, writesWord_setLine ⟨u.toNat, h⟩ s.x[xb] s⟩,
    fun xa xb u s h => ?_, fun xa xb u => ?_,
    fun w ws hop => decode_of_reserved_bits .dlProc (by decide) rfl hop (Nat.zero_le _)⟩
  · rw [exec, execDlProc, unitOf_of_le h]; rfl
  · simp [encode, Instr.header, Instr.data, headerOf, Opcode.bits]

end Sys2Proof.Machine
end

section
/-! ### Binary32: multiplying by 1.0 and by +0.0, adding +0.0 (spec/00_scope.md R9)

The exact result of such an operation is a value that a pattern stands for. Rounding gives back that pattern's own bits,
not only its value. -/

namespace Sys2Proof.F32

open Sys2Proof

/-! #### Rounding answers the bits of a value -/

theorem roundEven_mul_right (m : Nat) {d : Nat} (hd : 0 < d) : roundEven (m * d) d = m := by
  rw [roundEven, Nat.mul_mod_left, Nat.mul_div_cancel m hd, if_neg (by omega)]

/-- m * 2^k units already have at most 24 significant bits, so they round at shift k. -/
theorem roundShift_steps {k m d : Nat} (hd : 0 < d) (hm : m < 2 ^ 24) (hk : k = 0 ∨ 2 ^ 23 ≤ m) :
    roundShift (m * 2 ^ k * d) d = k := by
  rw [roundShift, Nat.mul_div_cancel _ hd]
  rcases Nat.eq_zero_or_pos k with rfl | hpos
  · rw [pow_zero, Nat.mul_one, if_pos hm]
  · have hfull : 2 ^ 23 ≤ m := hk.resolve_left hpos.ne'
    have hlow : 2 ^ (23 + k) ≤ m * 2 ^ k := by rw [pow_add]; exact Nat.mul_le_mul_right _ hfull
    have hhigh : m * 2 ^ k < 2 ^ (23 + k + 1) := by
      rw [Nat.add_right_comm, pow_add]
      exact Nat.mul_lt_mul_of_pos_right hm (Nat.two_pow_pos k)
    have hlog : Nat.log2 (m * 2 ^ k) = 23 + k :=
      (Nat.log2_eq_iff (hlow.trans_lt' (Nat.two_pow_pos _)).ne').mpr ⟨hlow, hhigh⟩
    have hbig : 2 ^ 24 ≤ m * 2 ^ k := hlow.trans' (Nat.pow_le_pow_right two_pos (by omega))
    rw [if_neg hbig.not_gt, hlog, Nat.add_sub_cancel_left]

/-- A magnitude as its exponent shift and its number of steps, and its pattern's lower 31 bits from the two. -/
theorem exists_steps (v : F32) :
    ∃ k m, m < 2 ^ 24 ∧ (k = 0 ∨ 2 ^ 23 ≤ m) ∧ mag v = m * 2 ^ k ∧ k * 2 ^ 23 + m = v.toNat % 2 ^ 31 := by
  have hexpo := expo_eq v
  have hfrac := frac_eq v
  rw [mag]
  split
  case isTrue he => exact ⟨0, frac v, by omega, .inl rfl, (Nat.mul_one _).symm, by omega⟩
  case isFalse he => exact ⟨expo v - 1, 2 ^ 23 + frac v, by omega, .inr (Nat.le_add_right _ _), rfl, by omega⟩

theorem bits_lt_of_isFinite {v : F32} (hv : isFinite v = true) : v.toNat % 2 ^ 31 < 0x7F800000 := by
  have hexpo := expo_eq v
  have hne : expo v ≠ 255 := by simpa [isFinite] using hv
  omega

theorem pack_bits (v : F32) : pack (isNeg v) (v.toNat % 2 ^ 31) = v := by
  refine BitVec.eq_of_toNat_eq ?_
  have hlt := v.isLt
  simp only [toNat_pack (Nat.mod_lt _ (by decide)), isNeg, BitVec.msb_eq_decide, decide_eq_true_eq]
  split <;> omega

/-- A magnitude, written as a fraction of any denominator, rounds to the pattern it came from. -/
theorem pack_roundMag {v : F32} (hv : isFinite v = true) {d : Nat} (hd : 0 < d) :
    pack (isNeg v) (roundMag (mag v * d) d) = v := by
  obtain ⟨k, m, hm, hk, hmag, hbits⟩ := exists_steps v
  have hlt := bits_lt_of_isFinite hv
  have hsteps : roundSteps (mag v * d) d = m := by
    rw [roundSteps, hmag, roundShift_steps hd hm hk, Nat.mul_assoc, Nat.mul_comm (2 ^ k)]
    exact roundEven_mul_right m (Nat.mul_pos hd (Nat.two_pow_pos k))
  rw [roundMag_eq, hsteps, hmag, roundShift_steps hd hm hk, Nat.min_eq_left (by omega), hbits, pack_bits]

/-! #### Exact operations -/

theorem isFinite_of_isZero {v : F32} (h : isZero v = true) : isFinite v = true := by
  obtain ⟨he, -⟩ : expo v = 0 ∧ frac v = 0 := by simpa [isZero] using h
  rw [isFinite, he]
  rfl

theorem one_mul_of_isFinite {v : F32} (hv : isFinite v = true) : mul one v = v := by
  obtain ⟨hfin, hneg, hmag⟩ : isFinite one = true ∧ isNeg one = false ∧ mag one = 2 ^ 149 := by decide
  rw [mul_of_isFinite hfin hv, hneg, hmag, Bool.false_bne, Nat.mul_comm, pack_roundMag hv (Nat.two_pow_pos 149)]

theorem isFinite_zero_mul {v : F32} (hv : isFinite v = true) : isFinite (mul zero v) = true := by
  obtain ⟨hmag, hround⟩ : mag zero = 0 ∧ roundMag 0 (2 ^ 149) = 0 := by decide
  rw [mul_of_isFinite isFinite_zero hv, hmag, Nat.zero_mul, hround]
  exact isFinite_pack (by decide) _

/-- The two operands of a difference of equal values have opposite signs, so it is +0.0. -/
theorem sub_self_of_isFinite {v : F32} (hv : isFinite v = true) : sub v v = zero := by
  rw [sub, add_of_isFinite hv ((isFinite_neg v).trans hv), val_neg, add_neg_cancel, if_pos rfl, isNeg_neg,
    Bool.and_not_self]
  rfl

/-- Adding +0.0 keeps every finite value but -0.0. -/
theorem add_zero_of_isFinite {v : F32} (hv : isFinite v = true) (hne : v ≠ 0x80000000#32) : add v zero = v := by
  obtain ⟨hzero, hplus⟩ : val zero = 0 ∧ isNeg zero = false := by decide
  have hbits := pack_roundMag hv one_pos
  rw [Nat.mul_one] at hbits
  rw [add_of_isFinite hv isFinite_zero, hzero, hplus, add_zero, Bool.and_false, natAbs_val]
  split
  case isTrue hval =>
    rw [← natAbs_val, hval, Int.natAbs_zero, roundMag_zero] at hbits
    cases hsign : isNeg v with
    | false => rw [hsign] at hbits; exact hbits
    | true => rw [hsign] at hbits; exact absurd hbits.symm hne
  case isFalse hval =>
    have hpos : 0 < mag v := by rw [← natAbs_val]; omega
    rw [val_eq_signed, decide_signed_neg _ hpos, hbits]

end Sys2Proof.F32
end

section
/-! ### Filters (spec/42_filters.md R261 to R272) -/

namespace Sys2Proof.Machine

open Sys2Proof Sys2Proof.Safety

/-! #### One step of a filter -/

theorem fltSteps_iff {f f' : Filter} {x y : F32} : FltSteps f x y f' ↔ y = fltOut f x ∧ f' = fltNext f x :=
  and_congr_right fun hy => by subst hy; rfl

/-! #### FLT.PROC -/

theorem exec_fltProc {u : BitVec 12} (h : u.toNat < 32) (xa xb : XReg) (s : State) :
    exec (.fltProc xa xb u) s =
      .next (setX xa (fltOut s.filters[u.toNat] s.x[xb])
        (setFilter ⟨u.toNat, h⟩ (fltNext s.filters[u.toNat] s.x[xb]) s)) := by
  rw [exec, execFltProc, unitOf_of_lt h]
  rfl

/-- A state with one filter stepped differs in that filter alone. -/
theorem fltSteps_setFilter (f : Fin 32) (x : F32) (s : State) :
    FltSteps s.filters[f] x (fltOut s.filters[f] x) (setFilter f (fltNext s.filters[f] x) s).filters[f] ∧
    ∀ g : Fin 32, g.val ≠ f.val → (setFilter f (fltNext s.filters[f] x) s).filters[g] = s.filters[g] := by
  refine ⟨?_, fun g hg => ?_⟩
  · rw [setFilter_filter, if_pos rfl]
    exact fltSteps_iff.mpr ⟨rfl, rfl⟩
  · rw [setFilter_filter, if_neg fun he => hg (congrArg Fin.val he.symm)]

/-- Settles O23: one filter is stepped, by the range of the unit field. -/
theorem fltProcCommand : Obligations.FltProcCommand := by
  refine ⟨fun xa xb u s h => ?_, fun xa xb u s h => ?_, fun xa xb u => ?_,
    fun w ws hop => decode_of_reserved_bits .fltProc (by decide) rfl hop (Nat.zero_le _)⟩
  · obtain ⟨hstep, hframe⟩ := fltSteps_setFilter ⟨u.toNat, h⟩ s.x[xb] s
    exact ⟨_, _, exec_fltProc h xa xb s, rfl, hstep, rfl, hframe⟩
  · rw [exec, execFltProc, unitOf_of_le h]; rfl
  · simp [encode, Instr.header, Instr.data, headerOf, Opcode.bits]

/-! #### A cleared BYPASS filter -/

/-- A filter with the BYPASS coefficients and a cleared state. -/
def ClearedBypass (f : Filter) : Prop := f.co = bypassCoefs ∧ f.s1 = F32.zero ∧ f.s2 = F32.zero

theorem fltOut_clearedBypass {f : Filter} (hf : ClearedBypass f) (x : F32) :
    fltOut f x = F32.sanitise (F32.add (F32.mul F32.one x) F32.zero) := by
  obtain ⟨hco, hs1, -⟩ := hf
  rw [fltOut, hco, hs1, bypassCoefs]

/-- The output is S(1.0*x + 0.0), which is x; each new state word is S of the difference of two equal products +0.0*x,
which is +0.0. -/
theorem fltSteps_clearedBypass {f : Filter} {x : F32} (hf : ClearedBypass f) (hx : F32.isFinite x = true)
    (hne : x ≠ 0x80000000#32) : FltSteps f x x f := by
  have hout : fltOut f x = x := by
    rw [fltOut_clearedBypass hf, F32.one_mul_of_isFinite hx, F32.add_zero_of_isFinite hx hne,
      F32.sanitise_of_isFinite hx]
  have hdiff : F32.sub (F32.mul F32.zero x) (F32.mul F32.zero x) = F32.zero :=
    F32.sub_self_of_isFinite (F32.isFinite_zero_mul hx)
  obtain ⟨hco, hs1, hs2⟩ := hf
  have hnext1 : F32.sanitise (F32.add (F32.sub (F32.mul f.co.b1 x) (F32.mul f.co.a1 x)) f.s2) = f.s1 := by
    rw [hco, hs1, hs2, bypassCoefs, hdiff]
    decide
  have hnext2 : F32.sanitise (F32.sub (F32.mul f.co.b2 x) (F32.mul f.co.a2 x)) = f.s2 := by
    rw [hco, hs2, bypassCoefs, hdiff]
    decide
  refine fltSteps_iff.mpr ⟨hout.symm, ?_⟩
  rw [fltNext, hout, hnext1, hnext2]

/-! #### A comb unit that is damped by such a filter -/

theorem exec_combProc {u : BitVec 12} (h : u.toNat < 16) (xa xb : XReg) (s : State) :
    exec (.combProc xa xb u) s =
      .next (setX xa (combOut s ⟨u.toNat, h⟩) (combStep ⟨u.toNat, h⟩ s.x[xb] s)) := by
  rw [exec, execCombProc, unitOf_of_lt h]
  rfl

/-- A unit whose damping filter stays as it is leaves every filter as it is. -/
theorem combStep_filters_of_unchanged {s : State} {c : Fin 16} (h : combFilter s c = s.filters[cbf c]) (x : F32) :
    (combStep c x s).filters = s.filters := by
  rw [combStep_filters, h]
  exact Vector.set_getElem_self _

/-- Settles O25: the damped word of a unit with a cleared BYPASS filter is the tap, so the pass is that of
`combLine_pass`. -/
theorem bypassFilterIsTransparent : Obligations.BypassFilterIsTransparent := by
  refine ⟨fun f x hco hs1 hs2 hx => ⟨fltSteps_clearedBypass ⟨hco, hs1, hs2⟩ hx, ?_⟩, ?_⟩
  · rintro rfl
    rw [fltOut_clearedBypass ⟨hco, hs1, hs2⟩]
    decide
  · intro s xa xb u h c f d hco hs1 hs2 hd hne hin
    obtain ⟨hout, hnext⟩ := fltSteps_iff.mp (fltSteps_clearedBypass ⟨hco, hs1, hs2⟩ hd hne)
    have hdamped : combDamped s c = d := hout.symm
    refine ⟨_, exec_combProc h xa xb s, combStep_filters_of_unchanged hnext.symm _, ?_, ?_⟩
    · rw [setX_lines, combStep_line, if_pos rfl, hin, combLine_pass hdamped]
      exact writesWord_dlWrite _ _
    · rw [setX_x, combStep_x, combOut, hdamped]

/-! #### COEFCALC -/

theorem coefCalc_bypass {f : Filter} (h : f.kind = .bypass) (fs : F32) : coefCalc fs f = (bypassCoefs, false) := by
  rw [coefCalc, h]

/-- Every kind but RAW and BYPASS is derived at the effective cutoff, stored through S, and clamps with the cutoff
(R261). -/
theorem coefCalc_derived {f : Filter} (hraw : f.kind ≠ .raw) (hbypass : f.kind ≠ .bypass) (fs : F32) :
    coefCalc fs f =
      (sanitiseCoefs (kindCoefs f.kind fs (effectiveFc fs f.fc).1 f.p f.co), (effectiveFc fs f.fc).2) := by
  rw [coefCalc]
  cases hk : f.kind with
  | raw => exact absurd hk hraw
  | bypass => exact absurd hk hbypass
  | lp1 | hp1 | shelf1 | vicanek1 | lp2 | hp2 => rfl

/-- A word of which only the sign bit is kept is a zero, and S keeps it. -/
theorem isZero_sanitise_zeroOf (v : F32) : F32.isZero (F32.sanitise (zeroOf v)) = true := by
  have hz : F32.isZero (zeroOf v) = true := by
    simp [F32.isZero, F32.expo, F32.frac, zeroOf, BitVec.extractLsb'_and]
  rw [F32.sanitise_of_isFinite (F32.isFinite_of_isZero hz), hz]

/-- What the kinds of the OPEN parameter functions store (R268). -/
theorem openCoefs_stored (r : F32 × F32 × F32 × F32 × F32) :
    (sanitiseCoefs (openCoefs r)).b0 = F32.sanitise r.1 ∧ (sanitiseCoefs (openCoefs r)).b1 = F32.sanitise r.2.1 ∧
    (sanitiseCoefs (openCoefs r)).a1 = F32.sanitise r.2.2.2.1 ∧
    F32.isZero (sanitiseCoefs (openCoefs r)).b2 = true ∧ F32.isZero (sanitiseCoefs (openCoefs r)).a2 = true :=
  ⟨rfl, rfl, rfl, isZero_sanitise_zeroOf _, isZero_sanitise_zeroOf _⟩

/-- Settles O24, kind by kind: S keeps the +0.0 that the one-pole kinds store. -/
theorem filterCoefficientRules : Obligations.FilterCoefficientRules := by
  intro fs f lim clamps fe t a k k2 r n b a1 a2 sh vi
  have hzero : F32.sanitise F32.zero = F32.zero := F32.sanitise_of_isFinite F32.isFinite_zero
  have hderived := fun hraw hbypass => coefCalc_derived (f := f) hraw hbypass fs
  refine ⟨fun hk => coefCalc_raw hk fs, fun hk => coefCalc_bypass hk fs, fun hk => ?_, fun hk => ?_, fun hk => ?_,
    fun hk => ?_, fun hk => ?_, fun hk => ?_⟩
  all_goals rw [hderived (by rw [hk]; nofun) (by rw [hk]; nofun), hk, kindCoefs]
  · rw [lp1Coefs, sanitiseCoefs, hzero]; rfl
  · rw [hp1Coefs, sanitiseCoefs, hzero]; rfl
  · rfl
  · rfl
  · exact ⟨rfl, openCoefs_stored sh⟩
  · exact ⟨rfl, openCoefs_stored vi⟩

end Sys2Proof.Machine
end

section
/-! ### Comb commands (spec/43_comb.md R304 to R306) -/

namespace Sys2Proof.Machine

open Sys2Proof Sys2Proof.Safety

/-! #### One unit -/

/-- A unit with the line and the filter of a comb step was stepped on its tap, with the damped word fed back. -/
theorem unit_stepped {c : Fin 16} {x : F32} {s t : State} (hline : t.lines[cbl c] = combLine s c x)
    (hfilter : t.filters[cbf c] = combFilter s c) :
    FltSteps s.filters[cbf c] (combTap s c) (combDamped s c) t.filters[cbf c] ∧
    WritesWord s.lines[cbl c] t.lines[cbl c] (F32.add x (F32.mul (combDamped s c) s.combs[c].fb)) := by
  rw [hline, hfilter]
  exact ⟨fltSteps_iff.mpr ⟨rfl, rfl⟩, writesWord_dlWrite _ _⟩

theorem combStep_line_other {c : Fin 16} {l : Fin 44} (h : l ≠ cbl c) (x : F32) (s : State) :
    (combStep c x s).lines[l] = s.lines[l] := by
  rw [combStep_line, if_neg h.symm]

theorem combStep_filter_other {c : Fin 16} {f : Fin 32} (h : f ≠ cbf c) (x : F32) (s : State) :
    (combStep c x s).filters[f] = s.filters[f] := by
  rw [combStep_filter, if_neg h.symm]

/-- Settles O26: one unit is stepped, by the range of the unit field. -/
theorem combProcCommand : Obligations.CombProcCommand := by
  refine ⟨fun xa xb u s h => ?_, fun xa xb u s h => ?_, fun xa xb u => ?_,
    fun w ws hop => decode_of_reserved_bits .combProc (by decide) rfl hop (Nat.zero_le _)⟩
  · intro c
    have hline : (combStep c s.x[xb] s).lines[cbl c] = combLine s c s.x[xb] := by rw [combStep_line, if_pos rfl]
    have hfilter : (combStep c s.x[xb] s).filters[cbf c] = combFilter s c := by rw [combStep_filter, if_pos rfl]
    obtain ⟨hsteps, hwrites⟩ := unit_stepped hline hfilter
    exact ⟨_, _, exec_combProc h xa xb s, rfl, hsteps, hwrites, rfl, fun _ hl => combStep_line_other hl _ s,
      fun _ hf => combStep_filter_other hf _ s⟩
  · rw [exec, execCombProc, unitOf_of_le h]; rfl
  · simp [encode, Instr.header, Instr.data, headerOf, Opcode.bits]

/-! #### Several units on one input -/

/-- The units of a list stepped one after another on one input. -/
def stepCombs (cs : List (Fin 16)) (x : F32) (s : State) : State := cs.foldl (fun t c => combStep c x t) s

theorem stepCombs_cons (c : Fin 16) (cs : List (Fin 16)) (x : F32) (s : State) :
    stepCombs (c :: cs) x s = stepCombs cs x (combStep c x s) := rfl

/-- A bank is stepped unit by unit (R306). -/
theorem bankStep_eq_stepCombs (b : Fin 2) (x : F32) (s : State) :
    bankStep b x s = stepCombs ((List.finRange 8).map (combOf b)) x s := by
  rw [bankStep, stepCombs, List.foldl_map]

/-- Comb steps change lines and filters only. -/
theorem stepCombs_frame (cs : List (Fin 16)) (x : F32) (s : State) :
    { stepCombs cs x s with lines := s.lines, filters := s.filters } = s := by
  induction cs generalizing s with
  | nil => rfl
  | cons c cs ih =>
    exact congrArg (fun t : State => { t with lines := s.lines, filters := s.filters }) (ih (combStep c x s))

theorem stepCombs_line_other {cs : List (Fin 16)} {l : Fin 44} (h : ∀ c ∈ cs, l ≠ cbl c) (x : F32) (s : State) :
    (stepCombs cs x s).lines[l] = s.lines[l] := by
  induction cs generalizing s with
  | nil => rfl
  | cons c cs ih =>
    obtain ⟨hc, hcs⟩ := List.forall_mem_cons.mp h
    rw [stepCombs_cons, ih hcs, combStep_line_other hc]

theorem stepCombs_filter_other {cs : List (Fin 16)} {f : Fin 32} (h : ∀ c ∈ cs, f ≠ cbf c) (x : F32) (s : State) :
    (stepCombs cs x s).filters[f] = s.filters[f] := by
  induction cs generalizing s with
  | nil => rfl
  | cons c cs ih =>
    obtain ⟨hc, hcs⟩ := List.forall_mem_cons.mp h
    rw [stepCombs_cons, ih hcs, combStep_filter_other hc]

/-- The units are independent: each one, stepped once, becomes what its step makes of the state before them all
(R306). -/
theorem stepCombs_unit {cs : List (Fin 16)} (hnodup : cs.Nodup) {d : Fin 16} (hd : d ∈ cs) (x : F32) (s : State) :
    (stepCombs cs x s).lines[cbl d] = combLine s d x ∧ (stepCombs cs x s).filters[cbf d] = combFilter s d := by
  induction cs generalizing s with
  | nil => cases hd
  | cons c cs ih =>
    obtain ⟨hc, hcs⟩ := List.nodup_cons.mp hnodup
    rw [stepCombs_cons]
    rcases List.mem_cons.mp hd with rfl | hmem
    · have hne : ∀ e ∈ cs, d ≠ e := fun e he h => hc (h ▸ he)
      rw [stepCombs_line_other fun e he h => hne e he (cbl_injective h),
        stepCombs_filter_other fun e he h => hne e he (cbf_injective h), combStep_line, combStep_filter]
      exact ⟨if_pos rfl, if_pos rfl⟩
    · have hne : c ≠ d := fun h => hc (h ▸ hmem)
      obtain ⟨hline, hfilter⟩ := combLine_combStep hne x x s
      rw [← hline, ← hfilter]
      exact ih hcs hmem _

/-! #### A bank -/

theorem combOf_injective (b : Fin 2) : Function.Injective (combOf b) := fun j k h => by
  simp only [combOf, Fin.mk.injEq] at h
  exact Fin.ext (by omega)

/-- The units of a bank, in the order in which they are stepped, are eight different ones. -/
theorem bankUnits_nodup (b : Fin 2) : ((List.finRange 8).map (combOf b)).Nodup :=
  (List.nodup_finRange 8).map (combOf_injective b)

/-- A result written to a sample register is the only further change. -/
theorem setXS_of_frame {s t : State} (h : { t with lines := s.lines, filters := s.filters } = s) (r : XReg) (v : F32) :
    { setXS r v t with lines := s.lines, filters := s.filters, x := s.x } = s ∧
    (setXS r v t).x = s.x.set r (F32.sanitise v) := by
  have hx : t.x = s.x := by simpa only using congrArg State.x h
  exact ⟨congrArg (fun u : State => { u with x := s.x }) h, by rw [setXS, setX_x, hx]⟩

theorem bankStep_frame (b : Fin 2) (x : F32) (s : State) :
    { bankStep b x s with lines := s.lines, filters := s.filters } = s := by
  rw [bankStep_eq_stepCombs]
  exact stepCombs_frame _ x s

theorem bankStep_unit (b : Fin 2) (k : Fin 8) (x : F32) (s : State) :
    (bankStep b x s).lines[cbl (combOf b k)] = combLine s (combOf b k) x ∧
    (bankStep b x s).filters[cbf (combOf b k)] = combFilter s (combOf b k) := by
  rw [bankStep_eq_stepCombs]
  exact stepCombs_unit (bankUnits_nodup b) (List.mem_map_of_mem (List.mem_finRange k)) x s

theorem bankStep_line_other {b : Fin 2} {l : Fin 44} (h : ∀ k : Fin 8, l ≠ cbl (combOf b k)) (x : F32) (s : State) :
    (bankStep b x s).lines[l] = s.lines[l] := by
  rw [bankStep_eq_stepCombs]
  exact stepCombs_line_other (List.forall_mem_map.mpr fun k _ => h k) x s

theorem bankStep_filter_other {b : Fin 2} {f : Fin 32} (h : ∀ k : Fin 8, f ≠ cbf (combOf b k)) (x : F32)
    (s : State) :
    (bankStep b x s).filters[f] = s.filters[f] := by
  rw [bankStep_eq_stepCombs]
  exact stepCombs_filter_other (List.forall_mem_map.mpr fun k _ => h k) x s

theorem exec_cbProc {u : BitVec 12} (h : u.toNat < 2) (xa xb : XReg) (s : State) :
    exec (.cbProc xa xb u) s =
      .next (setXS xa (sum8 fun k => combOut s (combOf ⟨u.toNat, h⟩ k)) (bankStep ⟨u.toNat, h⟩ s.x[xb] s)) := by
  rw [exec, execCbProc, unitOf_of_lt h]
  rfl

/-- Settles O27: eight units are stepped, each as in the state before the command, by the range of the unit field. -/
theorem cbProcCommand : Obligations.CbProcCommand := by
  refine ⟨fun xa xb u s h => ?_, fun xa xb u s h => ?_, fun xa xb u => ?_,
    fun w ws hop => decode_of_reserved_bits .cbProc (by decide) rfl hop (Nat.zero_le _)⟩
  · intro b
    obtain ⟨hframe, hx⟩ := setXS_of_frame (bankStep_frame b s.x[xb] s) xa (sum8 fun k => combOut s (combOf b k))
    refine ⟨_, fun k => combDamped s (combOf b k), exec_cbProc h xa xb s, hframe, fun k => ?_, hx,
      fun l hl => ?_, fun f hf => ?_⟩
    · obtain ⟨hline, hfilter⟩ := bankStep_unit b k s.x[xb] s
      rw [setXS_lines, setXS_filters]
      exact unit_stepped hline hfilter
    · rw [setXS_lines]
      exact bankStep_line_other hl _ s
    · rw [setXS_filters]
      exact bankStep_filter_other hf _ s
  · rw [exec, execCbProc, unitOf_of_le h]; rfl
  · simp [encode, Instr.header, Instr.data, headerOf, Opcode.bits]

end Sys2Proof.Machine
end

section
/-! ### All-pass commands (spec/44_allpass.md R330 to R335) -/

namespace Sys2Proof.Machine

open Sys2Proof Sys2Proof.Safety

/-! #### One stage -/

theorem apFeed_canonical {s : State} {a : Fin 16} (h : s.chains[chainOf a].mode = .canonical) (x : F32) :
    apFeed s a x = F32.add x (F32.mul s.chains[chainOf a].g (apOut s a x)) := by
  rw [apFeed, h]

theorem apFeed_literal {s : State} {a : Fin 16} (h : s.chains[chainOf a].mode = .literal) (x : F32) :
    apFeed s a x = F32.add x (F32.mul s.chains[chainOf a].g (apTap s a)) := by
  rw [apFeed, h]

theorem apStep_line_self (a : Fin 16) (x : F32) (s : State) :
    (apStep a x s).lines[apl a] = dlWrite s.lines[apl a] (apFeed s a x) := by
  rw [apStep_line, if_pos rfl]

theorem apStep_line_other {a : Fin 16} {l : Fin 44} (h : l ≠ apl a) (x : F32) (s : State) :
    (apStep a x s).lines[l] = s.lines[l] := by
  rw [apStep_line, if_neg h.symm]

/-- A result written to a sample register is the only further change. -/
theorem setX_of_frame {s t : State} (h : { t with lines := s.lines } = s) (r : XReg) (v : F32) :
    { setX r v t with lines := s.lines, x := s.x } = s ∧ (setX r v t).x = s.x.set r v := by
  have hx : t.x = s.x := by simpa only using congrArg State.x h
  exact ⟨congrArg (fun u : State => { u with x := s.x }) h, by rw [setX_x, hx]⟩

theorem exec_apProc {u : BitVec 12} (h : u.toNat < 16) (xa xb : XReg) (s : State) :
    exec (.apProc xa xb u) s =
      .next (setX xa (apOut s ⟨u.toNat, h⟩ s.x[xb]) (apStep ⟨u.toNat, h⟩ s.x[xb] s)) := by
  rw [exec, execApProc, unitOf_of_lt h]
  rfl

/-- Settles O28: one stage is stepped, by the range of the unit field, and writes what its mode feeds. -/
theorem apProcCommand : Obligations.ApProcCommand := by
  refine ⟨fun xa xb u s h => ?_, fun xa xb u s h => ?_, fun xa xb u => ?_,
    fun w ws hop => decode_of_reserved_bits .apProc (by decide) rfl hop (Nat.zero_le _)⟩
  · intro a ch x d y
    have hline : WritesWord s.lines[apl a] (apStep a x s).lines[apl a] (apFeed s a x) := by
      rw [apStep_line_self]
      exact writesWord_dlWrite _ _
    exact ⟨_, exec_apProc h xa xb s, rfl, rfl, fun hm => apFeed_canonical (a := a) hm x ▸ hline,
      fun hm => apFeed_literal (a := a) hm x ▸ hline, fun _ hl => apStep_line_other hl x s⟩
  · rw [exec, execApProc, unitOf_of_le h]; rfl
  · simp [encode, Instr.header, Instr.data, headerOf, Opcode.bits]

/-! #### Stages in series -/

/-- A stage has the coefficient and the mode of the chain it is a stage of. -/
theorem chains_stageOf (s : State) (ch k : Fin 4) : s.chains[chainOf (stageOf ch k)] = s.chains[ch] := by
  have hch : chainOf (stageOf ch k) = ch := by
    simp only [chainOf, stageOf, Fin.ext_iff]
    omega
  exact congrArg (fun c : Fin 4 => s.chains[c]) hch

theorem stageOf_injective (ch : Fin 4) : Function.Injective (stageOf ch) := fun j k h => by
  simp only [stageOf, Fin.mk.injEq] at h
  exact Fin.ext (by omega)

/-- The stages of a chain own different lines. -/
theorem apl_stageOf_ne {j k : Fin 4} (h : k ≠ j) (ch : Fin 4) : apl (stageOf ch k) ≠ apl (stageOf ch j) :=
  fun he => h (stageOf_injective ch (apl_injective he))

/-- A stage sees nothing of a step of another stage. -/
theorem apTap_apStep {a b : Fin 16} (h : apl b ≠ apl a) (x : F32) (s : State) :
    apTap (apStep a x s) b = apTap s b := by
  rw [apTap, apTap, apStep_line_other h]

theorem apOut_apStep {a b : Fin 16} (h : apl b ≠ apl a) (x : F32) (s : State) :
    apOut (apStep a x s) b = apOut s b := by
  funext v
  rw [apOut, apOut, apTap_apStep h, apStep_chains]

theorem apFeed_apStep {a b : Fin 16} (h : apl b ≠ apl a) (x : F32) (s : State) :
    apFeed (apStep a x s) b = apFeed s b := by
  funext v
  rw [apFeed, apFeed, apOut_apStep h, apTap_apStep h, apStep_chains]

/-- What the stages of a list of positions make of an input one after another, all with the taps of one state. -/
def seriesOut (s : State) (ch : Fin 4) (ks : List (Fin 4)) (v : F32) : F32 :=
  ks.foldl (fun w k => apOut s (stageOf ch k) w) v

theorem seriesOut_nil (s : State) (ch : Fin 4) (v : F32) : seriesOut s ch [] v = v := rfl

theorem seriesOut_cons (s : State) (ch k : Fin 4) (ks : List (Fin 4)) (v : F32) :
    seriesOut s ch (k :: ks) v = seriesOut s ch ks (apOut s (stageOf ch k) v) := rfl

theorem seriesOut_apStep {j : Fin 4} {ks : List (Fin 4)} (h : j ∉ ks) (ch : Fin 4) (x v : F32) (s : State) :
    seriesOut (apStep (stageOf ch j) x s) ch ks v = seriesOut s ch ks v := by
  induction ks generalizing v with
  | nil => rw [seriesOut_nil, seriesOut_nil]
  | cons k ks ih =>
    obtain ⟨hk, hks⟩ := List.ne_and_not_mem_of_not_mem_cons h
    rw [seriesOut_cons, seriesOut_cons, ih hks, apOut_apStep (apl_stageOf_ne (Ne.symm hk) ch)]

theorem chainRun_cons (ch k : Fin 4) (ks : List (Fin 4)) (v : F32) (s : State) :
    chainRun ch (k :: ks) v s = chainRun ch ks (apOut s (stageOf ch k) v) (apStep (stageOf ch k) v s) := rfl

/-- A run of stages changes lines only. -/
theorem chainRun_frame (ch : Fin 4) (ks : List (Fin 4)) (v : F32) (s : State) :
    { (chainRun ch ks v s).2 with lines := s.lines } = s := by
  induction ks generalizing v s with
  | nil => rfl
  | cons k ks ih => exact congrArg (fun t : State => { t with lines := s.lines }) (ih _ (apStep (stageOf ch k) v s))

theorem chainRun_line_other {ch : Fin 4} {ks : List (Fin 4)} {l : Fin 44} (h : ∀ k ∈ ks, l ≠ apl (stageOf ch k))
    (v : F32) (s : State) : (chainRun ch ks v s).2.lines[l] = s.lines[l] := by
  induction ks generalizing v s with
  | nil => rfl
  | cons k ks ih =>
    obtain ⟨hk, hks⟩ := List.forall_mem_cons.mp h
    rw [chainRun_cons, ih hks, apStep_line_other hk]

/-- Different stages read different lines, so a run answers what the taps of the state before it give (R335). -/
theorem chainRun_out {ks : List (Fin 4)} (hnodup : ks.Nodup) (ch : Fin 4) (v : F32) (s : State) :
    (chainRun ch ks v s).1 = seriesOut s ch ks v := by
  induction ks generalizing v s with
  | nil => rfl
  | cons k ks ih =>
    obtain ⟨hk, hks⟩ := List.nodup_cons.mp hnodup
    rw [chainRun_cons, ih hks, seriesOut_apStep hk, seriesOut_cons]

/-- The stage after the positions js takes their output and writes once, by its own tap of the state before the run. -/
theorem chainRun_line {js ks : List (Fin 4)} {k : Fin 4} (hnodup : (js ++ k :: ks).Nodup) (ch : Fin 4) (v : F32)
    (s : State) :
    (chainRun ch (js ++ k :: ks) v s).2.lines[apl (stageOf ch k)] =
      dlWrite s.lines[apl (stageOf ch k)] (apFeed s (stageOf ch k) (seriesOut s ch js v)) := by
  induction js generalizing v s with
  | nil =>
    have hk : k ∉ ks := (List.nodup_cons.mp hnodup).1
    rw [List.nil_append, chainRun_cons,
      chainRun_line_other fun i hi => apl_stageOf_ne (ne_of_mem_of_not_mem hi hk).symm ch, apStep_line_self,
      seriesOut_nil]
  | cons j js ih =>
    obtain ⟨hj, hrest⟩ := List.nodup_cons.mp hnodup
    obtain ⟨hjs, hjk⟩ : j ∉ js ∧ k ≠ j :=
      ⟨fun hi => hj (List.mem_append_left _ hi), fun he => hj (he ▸ List.mem_append_right _ List.mem_cons_self)⟩
    have hline := apl_stageOf_ne hjk ch
    rw [List.cons_append, chainRun_cons, ih hrest, apStep_line_other hline, apFeed_apStep hline,
      seriesOut_apStep hjs, seriesOut_cons]

/-! #### A whole chain -/

/-- The input of stage k of a chain that takes x: what the stages before it answer (R335). -/
def stageIn (s : State) (ch : Fin 4) (x : F32) (k : Fin 4) : F32 := seriesOut s ch ([0, 1, 2, 3].take k) x

theorem exec_apcProc {u : BitVec 12} (h : u.toNat < 4) (xa xb : XReg) (s : State) :
    exec (.apcProc xa xb u) s =
      .next (setX xa (apOut s (stageOf ⟨u.toNat, h⟩ 3) (stageIn s ⟨u.toNat, h⟩ s.x[xb] 3))
        (chainRun ⟨u.toNat, h⟩ [0, 1, 2, 3] s.x[xb] s).2) := by
  have hout := chainRun_out (ks := [0, 1, 2, 3]) (by decide) ⟨u.toNat, h⟩ s.x[xb] s
  rw [exec, execApcProc, unitOf_of_lt h]
  exact congrArg (fun v => Host.Outcome.next (setX xa v _)) hout

/-- Each stage of a chain writes once, what its mode feeds. -/
theorem chainRun_writesWord (ch k : Fin 4) (x : F32) (s : State) :
    WritesWord s.lines[apl (stageOf ch k)] (chainRun ch [0, 1, 2, 3] x s).2.lines[apl (stageOf ch k)]
      (apFeed s (stageOf ch k) (stageIn s ch x k)) := by
  have hsplit : ([0, 1, 2, 3] : List (Fin 4)) = [0, 1, 2, 3].take k ++ k :: [0, 1, 2, 3].drop (k + 1) := by
    revert k; decide
  have hnodup : ([0, 1, 2, 3] : List (Fin 4)).Nodup := by decide
  have hline := chainRun_line (hsplit ▸ hnodup) ch x s
  rw [← hsplit] at hline
  rw [hline]
  exact writesWord_dlWrite _ _

theorem apOut_stageOf (s : State) (ch k : Fin 4) (x : F32) :
    apOut s (stageOf ch k) x =
      F32.sanitise (F32.sub (apTap s (stageOf ch k)) (F32.mul s.chains[ch].g x)) := by
  rw [apOut.eq_def, chains_stageOf]

/-- What a stage of chain ch feeds, by the coefficient and the mode of the chain. -/
theorem apFeed_stageOf (s : State) (ch k : Fin 4) (x : F32) :
    apFeed s (stageOf ch k) x =
      if s.chains[ch].mode = .canonical then F32.add x (F32.mul s.chains[ch].g (apOut s (stageOf ch k) x))
      else F32.add x (F32.mul s.chains[ch].g (apTap s (stageOf ch k))) := by
  have hch := chains_stageOf s ch k
  cases hm : s.chains[ch].mode with
  | canonical => rw [apFeed_canonical (hch ▸ hm), hch, if_pos rfl]
  | literal => rw [apFeed_literal (hch ▸ hm), hch, if_neg nofun]

/-- Settles O29: four stages run in series, each with its tap of the state before, by the range of the unit field. -/
theorem apcProcCommand : Obligations.ApcProcCommand := by
  refine ⟨fun xa xb u s h => ?_, fun xa xb u s h => ?_, fun xa xb u => ?_,
    fun w ws hop => decode_of_reserved_bits .apcProc (by decide) rfl hop (Nat.zero_le _)⟩
  · intro ch g d
    obtain ⟨hframe, hx⟩ := setX_of_frame (chainRun_frame ch [0, 1, 2, 3] s.x[xb] s) xa
      (apOut s (stageOf ch 3) (stageIn s ch s.x[xb] 3))
    refine ⟨_, stageIn s ch s.x[xb], fun k => apOut s (stageOf ch k) (stageIn s ch s.x[xb] k),
      exec_apcProc h xa xb s, hframe, ⟨rfl, rfl, rfl, rfl, hx⟩, fun k => ⟨apOut_stageOf s ch k _, ?_⟩, fun l hl => ?_⟩
    · exact apFeed_stageOf s ch k _ ▸ chainRun_writesWord ch k s.x[xb] s
    · exact chainRun_line_other (fun k _ => hl k) _ s
  · rw [exec, execApcProc, unitOf_of_le h]; rfl
  · simp [encode, Instr.header, Instr.data, headerOf, Opcode.bits]

end Sys2Proof.Machine
end

section
/-! ### The feedback delay network (spec/45_fdn.md R364 to R366) -/

namespace Sys2Proof.F32

open Sys2Proof

/-! #### Zeros and the multiplication by 1.0 -/

/-- A zero is its sign and nothing else. -/
theorem exists_pack_of_isZero {v : F32} (h : isZero v = true) : ∃ neg, pack neg 0 = v := by
  obtain ⟨he, hf⟩ : expo v = 0 ∧ frac v = 0 := by simpa [isZero] using h
  have hexpo := expo_eq v
  have hfrac := frac_eq v
  have hbits : v.toNat % 2 ^ 31 = 0 := by omega
  exact ⟨isNeg v, hbits ▸ pack_bits v⟩

/-- 1.0 less half of a zero of either sign is 1.0. -/
theorem one_sub_half_of_isZero {v : F32} (h : isZero v = true) : sub one (mul v half) = one := by
  obtain ⟨neg, rfl⟩ := exists_pack_of_isZero h
  cases neg with
  | false => decide
  | true => decide

theorem pack_of_isInf {v : F32} (h : isInf v = true) : pack (isNeg v) 0x7F800000 = v := by
  obtain ⟨he, hf⟩ : expo v = 255 ∧ frac v = 0 := by simpa [isInf] using h
  have hexpo := expo_eq v
  have hfrac := frac_eq v
  have hbits : v.toNat % 2 ^ 31 = 0x7F800000 := by omega
  exact hbits ▸ pack_bits v

/-- Multiplying by 1.0 keeps the bits of every number, infinities included. -/
theorem mul_one_of_not_isNaN {v : F32} (hv : isNaN v = false) : mul v one = v := by
  obtain ⟨hfin, hneg, hmag⟩ : isFinite one = true ∧ isNeg one = false ∧ mag one = 2 ^ 149 := by decide
  cases hi : isInf v with
  | false =>
    have hvfin := isFinite_of_not hv hi
    rw [mul_of_isFinite hvfin hfin, hneg, hmag, Bool.bne_false, pack_roundMag hvfin (Nat.two_pow_pos 149)]
  | true =>
    have hone : isNaN one = false ∧ isInf one = false ∧ isZero one = false := by decide
    simp [mul, hv, hi, hone, hneg, isZero_of_isInf hi, pack_of_isInf hi]

theorem isNaN_ofNat (n : Nat) : isNaN (ofNat n) = false := isNaN_pack (roundMag_le _ _) _

/-- Between two numbers the clamp answers a number, in whatever order they stand. -/
theorem isNaN_clampR {lo hi : F32} (v : F32) (hlo : isNaN lo = false) (hhi : isNaN hi = false) :
    isNaN (clampR v lo hi) = false := by
  unfold clampR
  split
  case isTrue => exact hlo
  case isFalse hlow =>
    split
    case isTrue => exact hhi
    case isFalse =>
      obtain ⟨hv, -⟩ : isNaN v = false ∧ lt v lo = false := by simpa using hlow
      exact hv

end Sys2Proof.F32

namespace Sys2Proof.Machine

open Sys2Proof Sys2Proof.Safety

/-! #### Delays and taps -/

/-- A clamped delay is a number, for every capacity (R233). -/
theorem isNaN_clampD (ln : Line) (d : F32) : F32.isNaN (clampD ln d) = false := by
  rw [clampD_eq_clampR]
  exact F32.isNaN_clampR d (by decide) (F32.isNaN_ofNat _)

/-- The clamp of the modulation value is one of three cases: what was below -1.0 is not above 1.0 after it (R366). -/
theorem clampMod_eq (v : F32) :
    clampMod v = if F32.lt v F32.negOne then F32.negOne else if F32.lt F32.one v then F32.one else v := by
  have hordered : F32.lt F32.one F32.negOne = false := by decide
  rw [clampMod]
  cases F32.lt v F32.negOne with
  | false => rfl
  | true => exact if_neg (Bool.eq_false_iff.mp hordered)

/-- The delay of a line is clamped once, whichever way the excursion goes (R366). -/
theorem fdnDelay_eq_clampD (s : State) (m : F32) (i : Fin 8) :
    fdnDelay s m i = clampD s.lines[fdl i]
      (if i.val % 2 = 0 then F32.add s.lines[fdl i].len (F32.mul (clampMod m) s.fdn.mods)
       else F32.sub s.lines[fdl i].len (F32.mul (clampMod m) s.fdn.mods)) :=
  (apply_ite _ _ _ _).symm

/-- Settles O31: with no spread the right tap is read at 1.0 times the left delay, which is a number. -/
theorem zeroSpreadTapsAreEqual : Obligations.ZeroSpreadTapsAreEqual := by
  intro s m i hspread
  have hdelay : F32.isNaN (fdnDelay s m i) = false := by
    rw [fdnDelay_eq_clampD]
    exact isNaN_clampD _ _
  rw [fdnRightTap, fdnRightFraction, F32.one_sub_half_of_isZero hspread, F32.mul_one_of_not_isNaN hdelay, fdnLeftTap]

/-! #### The outputs -/

theorem mixLeft_eq (mode : MixMode) (r : Fin 8 → F32) :
    mixLeft mode r =
      if mode = .first then r 0
      else if mode = .split then F32.mul F32.quarter (F32.add (F32.add (F32.add (r 0) (r 2)) (r 4)) (r 6))
      else F32.mul F32.eighth (sum8 r) := by
  cases mode with
  | first => rw [mixLeft, if_pos rfl]
  | split => rw [mixLeft, if_neg nofun, if_pos rfl]
  | all => rw [mixLeft, if_neg nofun, if_neg nofun]

theorem mixRight_eq (mode : MixMode) (t : Fin 8 → F32) :
    mixRight mode t =
      if mode = .first then t 1
      else if mode = .split then F32.mul F32.quarter (F32.add (F32.add (F32.add (t 1) (t 3)) (t 5)) (t 7))
      else F32.mul F32.eighth (alternatingSum8 t) := by
  cases mode with
  | first => rw [mixRight, if_pos rfl]
  | split => rw [mixRight, if_neg nofun, if_pos rfl]
  | all => rw [mixRight, if_neg nofun, if_neg nofun]

/-! #### The lines and the filters -/

theorem lineOwner_eq_fdn_iff : ∀ (l : Fin 44) (i : Fin 8), lineOwner l = .fdn i ↔ l = fdl i := by decide

theorem filterOwner_eq_fdn_iff : ∀ (f : Fin 32) (i : Fin 8), filterOwner f = .fdn i ↔ f = fdf i := by decide

/-- Every line of the FDN is written once, from the state before the command (R366 step (5)). -/
theorem fdnStep_line (xL xR m : F32) (s : State) (i : Fin 8) :
    (fdnStep xL xR m s).lines[fdl i] = dlWrite s.lines[fdl i] (fdnInject s xL xR m i) := by
  simp only [fdnStep, Fin.getElem_fin, Vector.getElem_ofFn, Fin.eta, (lineOwner_eq_fdn_iff _ i).mpr rfl]

theorem fdnStep_line_other {l : Fin 44} (h : ∀ i : Fin 8, l ≠ fdl i) (xL xR m : F32) (s : State) :
    (fdnStep xL xR m s).lines[l] = s.lines[l] := by
  simp only [fdnStep, Fin.getElem_fin, Vector.getElem_ofFn, Fin.eta]
  split
  next i ho => exact absurd ((lineOwner_eq_fdn_iff l i).mp ho) (h i)
  next => rfl

/-- Every damping filter of the FDN is stepped once, on its left tap (R366 step (2)). -/
theorem fdnStep_filter (xL xR m : F32) (s : State) (i : Fin 8) :
    (fdnStep xL xR m s).filters[fdf i] = fltNext s.filters[fdf i] (fdnLeftTap s m i) := by
  simp only [fdnStep, Fin.getElem_fin, Vector.getElem_ofFn, Fin.eta, (filterOwner_eq_fdn_iff _ i).mpr rfl]

theorem fdnStep_filter_other {f : Fin 32} (h : ∀ i : Fin 8, f ≠ fdf i) (xL xR m : F32) (s : State) :
    (fdnStep xL xR m s).filters[f] = s.filters[f] := by
  simp only [fdnStep, Fin.getElem_fin, Vector.getElem_ofFn, Fin.eta]
  split
  next i ho => exact absurd ((filterOwner_eq_fdn_iff f i).mp ho) (h i)
  next => rfl

/-- The step of the FDN changes lines and filters only. -/
theorem fdnStep_frame (xL xR m : F32) (s : State) :
    { fdnStep xL xR m s with lines := s.lines, filters := s.filters } = s := by
  rw [fdnStep]

/-! #### FDN.PROC -/

/-- Two results written to sample registers, the second one last, are the only further change. -/
theorem setXS_setXS_of_frame {s t : State} (h : { t with lines := s.lines, filters := s.filters } = s)
    (ra re : XReg) (va ve : F32) :
    { setXS re ve (setXS ra va t) with lines := s.lines, filters := s.filters, x := s.x } = s ∧
    (setXS re ve (setXS ra va t)).x = (s.x.set ra (F32.sanitise va)).set re (F32.sanitise ve) := by
  obtain ⟨hframe, hx⟩ := setXS_of_frame h ra va
  exact ⟨hframe, by rw [setXS, setX_x, hx]⟩

/-- The number of a header of format N (spec/30_encoding.md R141, R146). -/
theorem headerOf_unitOfN (o : Opcode) (a b c e m : XReg) :
    headerOf o a b c (unitOfN e m) =
      BitVec.ofNat 32 (o.bits.toNat * 2 ^ 24 + a.val * 2 ^ 20 + b.val * 2 ^ 16 + c.val * 2 ^ 12 + e.val * 2 ^ 4 +
        m.val) := by
  have hpow : 2 ^ 4 = 16 := rfl
  rw [headerOf, unitOfN_toNat, hpow, ← Nat.add_assoc]

theorem exec_fdnProc (xa xb xc xe xm : XReg) (s : State) :
    exec (.fdnProc xa xb xc xe xm) s =
      .next (setXS xe (mixRight s.fdn.mixMode (fdnRightTap s s.x[xm]))
        (setXS xa (mixLeft s.fdn.mixMode (fdnLeftTap s s.x[xm])) (fdnStep s.x[xb] s.x[xc] s.x[xm] s))) := by
  rw [exec, execFdnProc]
  rfl

/-- Settles O30: the taps and the mixed outputs, written out, are those of the model by name; with the names in their
place the step of the FDN gives every line and filter. -/
theorem fdnProcCommand : Obligations.FdnProcCommand := by
  refine ⟨fun xa xb xc xe xm s => ?_, fun xa xb xc xe xm => congrArg (· :: []) (headerOf_unitOfN .fdnProc _ _ _ _ _),
    fun w ws hop => decode_of_reserved_bits .fdnProc (by decide) rfl hop (Nat.zero_le _)⟩
  intro m mm q dl r p oL oR
  have hdl : ∀ i, dl i = fdnDelay s s.x[xm] i := fun i => by rw [fdnDelay_eq_clampD, clampMod_eq]
  have hr : r = fdnLeftTap s s.x[xm] := funext fun i => congrArg (dlRead _) (hdl i)
  have hp : p = fdnRightTap s s.x[xm] := funext fun i => congrArg (fun d => dlRead _ (F32.mul d q)) (hdl i)
  have hoL : oL = mixLeft s.fdn.mixMode r := (mixLeft_eq _ _).symm
  have hoR : oR = mixRight s.fdn.mixMode p := (mixRight_eq _ _).symm
  clear_value oL oR r p
  subst hoL hoR hr hp
  obtain ⟨hframe, hx⟩ := setXS_setXS_of_frame (fdnStep_frame s.x[xb] s.x[xc] s.x[xm] s) xa xe
    (mixLeft s.fdn.mixMode (fdnLeftTap s s.x[xm])) (mixRight s.fdn.mixMode (fdnRightTap s s.x[xm]))
  refine ⟨_, fun i => fltOut s.filters[fdf i] (fdnLeftTap s s.x[xm] i), exec_fdnProc xa xb xc xe xm s, hframe,
    fun i => ⟨fltSteps_iff.mpr ⟨rfl, ?_⟩, ?_⟩, hx, fun l hl => ?_, fun f hf => ?_⟩
  · rw [setXS_filters, setXS_filters, fdnStep_filter]
  · rw [setXS_lines, setXS_lines, fdnStep_line]
    exact writesWord_dlWrite _ _
  · rw [setXS_lines, setXS_lines, fdnStep_line_other hl]
  · rw [setXS_filters, setXS_filters, fdnStep_filter_other hf]

end Sys2Proof.Machine
end

section
/-! ### The error record and failing commands (spec/60_exceptions.md R401 to R405, R410) -/

namespace Sys2Proof.Machine

open Sys2Proof

/-! #### The error record -/

theorem errPcOf_host {s : State} (h : s.pc = none) : errPcOf s = 0xFFFFFFFF#32 := by rw [errPcOf, h]

theorem errPcOf_program {s : State} {p : Nat} (h : s.pc = some p) : errPcOf s = BitVec.ofNat 32 p := by
  rw [errPcOf, h]

theorem recordError_of_err {s : State} (h : s.err = true) (k : Cause) (w : Word) : recordError k w s = s := if_pos h

theorem recordError_of_not_err {s : State} (h : s.err = false) (k : Cause) (w : Word) :
    recordError k w s = { s with err := true, cause := some k, errWord := w, errPc := errPcOf s } :=
  if_neg (h ▸ Bool.false_ne_true)

/-- Settles O43, by ERR and the context. -/
theorem recordErrorRule : Obligations.RecordErrorRule := by
  refine fun k w s => ⟨fun he hp => ?_, fun p he hp => ?_, fun he => recordError_of_err he k w⟩
  · rw [recordError_of_not_err he, errPcOf_host hp]
  · rw [recordError_of_not_err he, errPcOf_program hp]

/-! #### Commands that fail a check of their own -/

/-- The command fails UNIT_RANGE, or it is a WREG or an RREG that fails a check of its address or value. -/
theorem staticError_cases {i : Instr} {k : Cause} (h : i.staticError = some k) :
    (i.unitOk = false ∧ k = .unitRange) ∨ (∃ a v, i = .wreg a v ∧ wregError a v = some k) ∨
    ∃ a, i = .rreg a ∧ rregError a = some k := by
  unfold Instr.staticError at h
  split at h
  · split at h
    next a v _ => exact .inr (.inl ⟨a, v, rfl, h⟩)
    next a _ => exact .inr (.inr ⟨a, rfl, h⟩)
    next => cases h
  next hu => exact .inl ⟨Bool.not_eq_true _ ▸ hu, (Option.some.inj h).symm⟩

theorem staticError_of_unitRange {i : Instr} (hu : i.unitOk = false) : i.staticError = some .unitRange := by
  unfold Instr.staticError
  rw [hu]
  rfl

/-- The three checks of a WREG, in order (R401). -/
theorem wregError_cases {a : BitVec 16} {v : Word} {k : Cause} (h : wregError a v = some k) :
    (regOf a = none ∧ k = .regAddr) ∨
    ∃ r, regOf a = some r ∧
      ((regAccess r = .ro ∧ k = .regRo) ∨ (regAccess r ≠ .ro ∧ regLegal r v = false ∧ k = .badValue)) := by
  unfold wregError at h
  split at h
  next ha => exact .inl ⟨ha, (Option.some.inj h).symm⟩
  next r ha =>
    refine .inr ⟨r, ha, ?_⟩
    split at h
    next hro => exact .inl ⟨hro, (Option.some.inj h).symm⟩
    next hro =>
      split at h
      · cases h
      next hv => exact .inr ⟨hro, Bool.not_eq_true _ ▸ hv, (Option.some.inj h).symm⟩

theorem rregError_eq_some_iff {a : BitVec 16} {k : Cause} :
    rregError a = some k ↔ regOf a = none ∧ k = .regAddr := by
  cases ha : regOf a <;> simp [rregError, ha, eq_comm]

theorem unitOf_of_decide {n : Nat} {u : BitVec 12} (h : decide (u.toNat < n) = false) : unitOf n u = none :=
  unitOf_of_le (Nat.not_lt.mp (of_decide_eq_false h))

/-- A command whose unit does not exist is UNIT_RANGE in both contexts; PLOAD, the only host-only one, in the host
stream (R402). -/
theorem exec_of_unitRange {i : Instr} {s : State} (hu : i.unitOk = false)
    (hc : s.pc = none ∨ i.opcode.hostOnly = false) : exec i s = .next (raiseError .unitRange i s) := by
  cases i
  case pload a p =>
    exact exec_pload_outOfRange (hc.resolve_right nofun) (Nat.not_lt.mp (of_decide_eq_false hu)) p
  case dlRd xa u => simp only [exec, execDlRd, unitOf_of_decide (n := 44) hu]
  case dlRdo xa xb u => simp only [exec, execDlRdo, unitOf_of_decide (n := 44) hu]
  case dlWr xb u => simp only [exec, execDlWr, unitOf_of_decide (n := 44) hu]
  case dlProc xa xb u => simp only [exec, execDlProc, unitOf_of_decide (n := 44) hu]
  case fltProc xa xb u => simp only [exec, execFltProc, unitOf_of_decide (n := 32) hu]
  case combProc xa xb u => simp only [exec, execCombProc, unitOf_of_decide (n := 16) hu]
  case cbProc xa xb u => simp only [exec, execCbProc, unitOf_of_decide (n := 2) hu]
  case apProc xa xb u => simp only [exec, execApProc, unitOf_of_decide (n := 16) hu]
  case apcProc xa xb u => simp only [exec, execApcProc, unitOf_of_decide (n := 4) hu]
  all_goals cases hu

/-- In the host stream a failing WREG records the first check it fails. -/
theorem exec_wreg_of_error {a : BitVec 16} {v : Word} {k : Cause} {s : State} (hp : s.pc = none)
    (h : wregError a v = some k) : exec (.wreg a v) s = .next (raiseError k (.wreg a v) s) := by
  rcases wregError_cases h with ⟨ha, rfl⟩ | ⟨r, ha, ⟨hro, rfl⟩ | ⟨hro, hv, rfl⟩⟩
  · exact exec_wreg_unmapped hp ha v
  · exact exec_wreg_readOnly hp ha hro v
  · exact exec_wreg_illegal hp ha hro hv

/-- In a frame program every host-only command is CONTEXT (R410). -/
theorem exec_hostOnly_program {i : Instr} {s : State} {p : Nat} (hp : s.pc = some p)
    (hh : i.opcode.hostOnly = true) : exec i s = .next (raiseError .context i s) := by
  cases i
  case wreg | rreg | init | pload => exact congrArg Host.Outcome.next (hostOnly_program hp _ _)
  case frame l r => simp only [exec, execFrame, hp]
  all_goals cases hh

/-- An RREG has no unit field. -/
theorem opcode_ne_rreg_of_unitRange {i : Instr} (hu : i.unitOk = false) : i.opcode ≠ .rreg := by
  cases i
  case rreg => cases hu
  all_goals nofun

/-- Settles O44, by the check that fails. -/
theorem commandErrorIsRecorded : Obligations.CommandErrorIsRecorded := by
  refine fun i s k => ⟨fun hp h => ?_, fun p hp hh => exec_hostOnly_program hp hh, fun p hp hh h => ?_⟩
  · rcases staticError_cases h with ⟨hu, rfl⟩ | ⟨a, v, rfl, hw⟩ | ⟨a, rfl, hr⟩
    · simp only [opcode_ne_rreg_of_unitRange hu, if_false, List.append_nil]
      exact exec_of_unitRange hu (.inl hp)
    · simp only [Instr.opcode, reduceCtorEq, if_false, List.append_nil]
      exact exec_wreg_of_error hp hw
    · obtain ⟨ha, rfl⟩ := rregError_eq_some_iff.mp hr
      simp only [Instr.opcode, if_true, recordError_rsp]
      exact exec_rreg_unmapped hp ha
  · rcases staticError_cases h with ⟨hu, rfl⟩ | ⟨a, v, rfl, -⟩ | ⟨a, rfl, -⟩
    · exact exec_of_unitRange hu (.inr hh)
    · cases hh
    · cases hh

/-! #### Headers that give no command -/

theorem emitFailed_of_illegal {w : Word} (ho : opcodeOf (opField w) = none) (s : State) : emitFailed w s = s := by
  simp only [emitFailed, ho]

/-- The words that a failed command of the host stream emits, by its opcode (R403). -/
theorem emitFailed_of_assigned {w : Word} {o : Opcode} (ho : opcodeOf (opField w) = some o) (s : State) :
    emitFailed w s =
      { s with rsp := s.rsp ++ if o = .rreg then [0#32] else if o = .frame then [0#32, 0#32] else [] } := by
  rw [emitFailed, ho]
  cases o
  case rreg => rfl
  case frame => simp [emit]
  all_goals simp

theorem failWord_of_illegal {w : Word} {ws : List Word} {s : State} (ho : opcodeOf (opField w) = none)
    (hin : s.hostIn = w :: ws) (k : Cause) : failWord k w s = recordError k w { s with hostIn := ws } := by
  rw [failWord, emitFailed_of_illegal ho, commandLength_of_none ho, consume, hin]
  rfl

theorem failWord_of_assigned {w : Word} {ws : List Word} {s : State} {o : Opcode}
    (ho : opcodeOf (opField w) = some o) (hin : s.hostIn = w :: ws) (k : Cause) :
    failWord k w s =
      let t := recordError k w { s with hostIn := ws.drop o.dataWords }
      { t with rsp := t.rsp ++ if o = .rreg then [0#32] else if o = .frame then [0#32, 0#32] else [] } := by
  rw [failWord, emitFailed_of_assigned ho, commandLength_of_some ho, consume, hin, Nat.add_comm, List.drop_succ_cons]

/-- An unassigned opcode in a frame program is recorded, and the run goes on after its one word (R149, R405). -/
theorem runProgram_of_illegal {s : State} {p : Nat} {w : Word} (hp : s.pc = some p)
    (hd : decode (programWords p s) = .error (.illegalOpcode w)) (n : Nat) :
    runProgram (n + 1) s = runProgram n (updateIrq (failInProgram .illegalOpcode w s)) := by
  rw [runProgram_some hp, programStep]
  simp only [hd, andThen_next]

/-- A failed header in a frame program moves the PC past its words. -/
theorem failInProgram_eq {s : State} {p : Nat} (hp : s.pc = some p) (k : Cause) (w : Word) :
    failInProgram k w s = { recordError k w s with pc := some (p + commandLength w) } := by
  rw [failInProgram, advancePc, recordError_pc, hp]
  rfl

theorem programReservedCause_of_assigned {w : Word} {o : Opcode} (ho : opcodeOf (opField w) = some o) :
    programReservedCause w = if o.hostOnly then .context else .reservedField := by
  simp only [programReservedCause, headerHostOnly, ho]

/-- Settles O9: the decoder gives the error, in the host stream for the step and in a program for the pass. -/
theorem badHeaderIsRecordedAndSkipped : Obligations.BadHeaderIsRecordedAndSkipped := by
  refine ⟨fun s w ws hp hst hin => ⟨fun ho => ?_, fun o ho hlen hmask => ?_⟩,
    fun n s p w ws hp hw => ⟨fun ho => ?_, fun o ho hlen hmask => ?_⟩⟩
  · have hf : fetchCommand s = .failed (failWord .illegalOpcode w s) := by
      simp only [fetchCommand, hin, decode_of_illegal ho]
    rw [step_of_failed hp hst hf, failWord_of_illegal ho hin]
  · have hf : fetchCommand s = .failed (failWord .reservedField w s) := by
      simp only [fetchCommand, hin, decode_of_reserved ho hlen hmask]
    rw [step_of_failed hp hst hf, failWord_of_assigned ho hin]
  · have hd : decode (programWords p s) = .error (.illegalOpcode w) := by
      rw [programWords, hw, decode_of_illegal ho]
    rw [runProgram_of_illegal hp hd, failInProgram_eq hp, commandLength_of_none ho]
    rfl
  · have hd : decode (programWords p s) = .error (.reservedField w) := by
      rw [programWords, hw, decode_of_reserved ho hlen hmask]
    rw [runProgram_of_reserved hp hd, failInProgram_eq hp, commandLength_of_some ho,
      programReservedCause_of_assigned ho]
    rfl

end Sys2Proof.Machine
end

section
/-! ### What datapath commands, frame programs and passing commands leave alone
(spec/60_exceptions.md R400, R405, R410, R416, spec/10_state.md R80, spec/20_memory.md R113) -/

namespace Sys2Proof.Machine

open Sys2Proof Sys2Proof.Safety

/-! #### The configuration -/

/-- Writes at its cursor change the buffer and the cursor of a line only. -/
theorem writes_frame (vs : List F32) (ln : Line) :
    vs.foldl dlWrite ln =
      { ln with buf := (vs.foldl dlWrite ln).buf, wptr := (vs.foldl dlWrite ln).wptr } := by
  induction vs generalizing ln with
  | nil => rfl
  | cons v vs ih => exact ih (dlWrite ln v)

/-- No effect of a frame program reaches the configuration (R410). -/
theorem ProgramEffect.sameConfiguration {s t : State} (h : ProgramEffect s t) : SameConfiguration s t := by
  refine ⟨(congrArg State.pmem h.rest :), (congrArg State.fs h.rest :), (congrArg State.errIe h.rest :),
    (congrArg State.clampIe h.rest :), fun l => ?_, h.filter, (congrArg State.combs h.rest :),
    (congrArg State.banks h.rest :), (congrArg State.chains h.rest :), (congrArg State.fdn h.rest :)⟩
  obtain ⟨vs, hvs⟩ := h.line l
  rw [hvs]
  exact writes_frame vs _

/-- Settles O48: a run has a program effect, and so has a FRAME between its start and its two words. -/
theorem programCannotChangeConfiguration : Obligations.ProgramCannotChangeConfiguration := by
  refine ⟨fun n s t ht => ?_, fun l r s t ht => ?_⟩
  · have h := ProgramEffect.runProgram ht
    exact ⟨h.sameConfiguration, (congrArg State.clamp h.rest :), (congrArg State.hostIn h.rest :),
      (congrArg State.rsp h.rest :), (congrArg State.frameCnt h.rest :), (congrArg State.finL h.rest :),
      (congrArg State.finR h.rest :), fun hirq => runProgram_irq hirq ht⟩
  · cases hp : s.pc with
    | none =>
      obtain ⟨u, h, rfl⟩ := completeFrame_effect (execFrame_host hp l r ▸ ht)
      exact ⟨h.sameConfiguration, (congrArg State.clamp h.rest :), (congrArg State.hostIn h.rest :)⟩
    | some p =>
      obtain rfl := Host.Outcome.next.inj ((exec_hostOnly_program hp rfl).symm.trans ht)
      exact ⟨(ProgramEffect.raiseError _ _).sameConfiguration, recordError_clamp .., recordError_hostIn ..⟩

/-! #### Datapath commands -/

/-- What a datapath command leaves alone: s with all that one can write blanked out. -/
def datapathFrame (s : State) : State :=
  { s with
    x := State.reset.x, foutL := 0, foutR := 0, lines := State.reset.lines, filters := State.reset.filters }

theorem datapathFrame_setX (r : XReg) (v : F32) (s : State) : datapathFrame (setX r v s) = datapathFrame s := rfl

/-- What differs in lines and filters only has the frame. -/
theorem datapathFrame_of_frame {s t : State} (h : { t with lines := s.lines, filters := s.filters } = s) :
    datapathFrame t = datapathFrame s := (congrArg datapathFrame h :)

theorem datapathFrame_chainRun (ch : Fin 4) (ks : List (Fin 4)) (v : F32) (s : State) :
    datapathFrame (chainRun ch ks v s).2 = datapathFrame s := (congrArg datapathFrame (chainRun_frame ch ks v s) :)

/-- A datapath command with its unit in range writes sample registers, the output frame, lines and filters only. -/
theorem exec_datapath {i : Instr} (hh : i.opcode.hostOnly = false) (hend : i ≠ .endProg) (hu : i.unitOk = true)
    (s : State) : ∃ t, exec i s = .next t ∧ datapathFrame t = datapathFrame s := by
  cases i
  case wreg | rreg | init | pload | frame => cases hh
  case endProg => exact absurd rfl hend
  case nop | mov | add | sub | mul | ldk | inp | out => exact ⟨_, rfl, rfl⟩
  case dlRd xa u => exact ⟨_, exec_dlRd (of_decide_eq_true hu) xa s, rfl⟩
  case dlRdo xa xb u => exact ⟨_, exec_dlRdo (of_decide_eq_true hu) xa xb s, rfl⟩
  case dlWr xb u => exact ⟨_, exec_dlWr (of_decide_eq_true hu) xb s, rfl⟩
  case dlProc xa xb u => exact ⟨_, exec_dlProc (of_decide_eq_true hu) xa xb s, rfl⟩
  case fltProc xa xb u => exact ⟨_, exec_fltProc (of_decide_eq_true hu) xa xb s, rfl⟩
  case combProc xa xb u => exact ⟨_, exec_combProc (of_decide_eq_true hu) xa xb s, rfl⟩
  case cbProc xa xb u =>
    exact ⟨_, exec_cbProc (of_decide_eq_true hu) xa xb s,
      (datapathFrame_setX ..).trans (datapathFrame_of_frame (bankStep_frame _ _ s))⟩
  case apProc xa xb u => exact ⟨_, exec_apProc (of_decide_eq_true hu) xa xb s, rfl⟩
  case apcProc xa xb u =>
    exact ⟨_, exec_apcProc (of_decide_eq_true hu) xa xb s,
      (datapathFrame_setX ..).trans (datapathFrame_chainRun _ _ _ s)⟩
  case fdnProc xa xb xc xe xm =>
    exact ⟨_, exec_fdnProc xa xb xc xe xm s,
      ((datapathFrame_setX ..).trans (datapathFrame_setX ..)).trans (datapathFrame_of_frame (fdnStep_frame _ _ _ s))⟩

/-- Settles O47: lines and filters keep their settings as in every program, and nothing else that is not a sample is
written. -/
theorem datapathNeverSetsFlags : Obligations.DatapathNeverSetsFlags := by
  intro i s hh hend hu
  obtain ⟨t, ht, h⟩ := exec_datapath hh hend hu s
  have heffect : ProgramEffect s t := by
    rcases executeInProgram_eq_exec_or_frame i s with he | ⟨l, r, rfl⟩
    · exact .executeInProgram (.inr hh) (he.trans ht)
    · cases hh
  exact ⟨t, ht, heffect.sameConfiguration, (congrArg State.err h :), (congrArg State.clamp h :),
    (congrArg State.cause h :), (congrArg State.errWord h :), (congrArg State.errPc h :), (congrArg State.pc h :),
    (congrArg State.frameCnt h :), (congrArg State.rsp h :), (congrArg State.hostIn h :), (congrArg State.irq h :),
    (congrArg State.finL h :), (congrArg State.finR h :)⟩

/-! #### Commands that pass their checks -/

/-- No error was recorded from s to t; ERR may have been cleared. -/
def NoNewError (s t : State) : Prop :=
  (t.err = true → s.err = true) ∧ t.cause = s.cause ∧ t.errWord = s.errWord ∧ t.errPc = s.errPc

theorem NoNewError.of_datapathFrame {s t : State} (h : datapathFrame t = datapathFrame s) : NoNewError s t :=
  ⟨((congrArg State.err h :) : t.err = s.err).symm.trans, (congrArg State.cause h :), (congrArg State.errWord h :),
    (congrArg State.errPc h :)⟩

theorem NoNewError.of_writeEffect {s t : State} (h : WriteEffect s t) : NoNewError s t :=
  ⟨h.err.symm.trans, (congrArg State.cause h.rest :), (congrArg State.errWord h.rest :),
    (congrArg State.errPc h.rest :)⟩

/-- A register write records no error; one to STATUS can clear ERR (spec/10_state.md R38). -/
theorem NoNewError.writeReg (r : Reg) (v : Word) (s : State) : NoNewError s (writeReg r v s) := by
  by_cases hr : r = .status
  · subst hr
    exact ⟨fun h => (Bool.and_eq_true_iff.mp h).1, rfl, rfl, rfl⟩
  · exact of_writeEffect (.writeReg hr v)

/-- A WREG that passes its checks names a register that takes the value. -/
theorem exists_of_wregError_eq_none {a : BitVec 16} {v : Word} (h : wregError a v = none) :
    ∃ r, a = regAddr r ∧ regAccess r ≠ .ro ∧ regLegal r v = true := by
  unfold wregError at h
  split at h
  · cases h
  next r ha =>
    split at h
    · cases h
    next hro =>
      split at h
      next hv => exact ⟨r, (regAddr_of_regOf ha).symm, hro, hv⟩
      · cases h

theorem exists_of_rregError_eq_none {a : BitVec 16} (h : rregError a = none) : ∃ r, regOf a = some r := by
  unfold rregError at h
  split at h
  · cases h
  next r ha => exact ⟨r, ha⟩

theorem unitOk_of_wellFormed {i : Instr} (h : i.WellFormed) : i.unitOk = true := by
  by_contra hu
  exact nomatch h.symm.trans (staticError_of_unitRange (Bool.not_eq_true _ ▸ hu))

/-- A command that passes its checks, in a context where it is legal, records no error. -/
theorem exec_noNewError {i : Instr} {s : State} (hwf : i.WellFormed) (hframe : i.opcode ≠ .frame)
    (hc : s.pc = none ∨ i.opcode.hostOnly = false) : ∃ t, exec i s = .next t ∧ NoNewError s t := by
  have hu := unitOk_of_wellFormed hwf
  cases hh : i.opcode.hostOnly with
  | false =>
    by_cases hend : i = .endProg
    · subst hend
      exact ⟨_, rfl, id, rfl, rfl, rfl⟩
    · obtain ⟨t, ht, h⟩ := exec_datapath hh hend hu s
      exact ⟨t, ht, .of_datapathFrame h⟩
  | true =>
    have hp : s.pc = none := hc.resolve_right (hh ▸ nofun)
    cases i
    case wreg a v =>
      obtain ⟨r, rfl, hro, hv⟩ := exists_of_wregError_eq_none (a := a) (v := v) hwf
      exact ⟨_, exec_wreg r hp hro hv, .writeReg r v s⟩
    case rreg a =>
      obtain ⟨r, ha⟩ := exists_of_rregError_eq_none (a := a) hwf
      exact ⟨_, exec_rreg hp ha, id, rfl, rfl, rfl⟩
    case init => exact ⟨_, execInit_host hp, .of_writeEffect (WriteEffect.refl s).initProc⟩
    case pload a p => exact ⟨_, exec_pload hp (of_decide_eq_true hu) p, id, rfl, rfl, rfl⟩
    case frame => exact absurd rfl hframe
    all_goals cases hh

/-- Every step answers a next state: the sequencer never stops (R405). -/
theorem exists_step (s : State) : ∃ t, step s = .next t := by
  cases hst : stalled s with
  | true => exact ⟨s, step_of_stalled hst⟩
  | false =>
    cases hp : s.pc with
    | some p =>
      obtain ⟨t, ht, -⟩ := HostBlind.completeFrame s
      exact ⟨settle t, by simp only [step, hst, hp, ht, andThen_next, Bool.false_eq_true, if_false]⟩
    | none =>
      cases hf : fetchCommand s with
      | hold => exact ⟨s, by simp only [step, hst, hp, hf, Bool.false_eq_true, if_false]⟩
      | failed u => exact ⟨settle u, step_of_failed hp hst hf⟩
      | run i u =>
        obtain ⟨t, ht⟩ := exists_exec i u
        exact ⟨settle t, by rw [step_of_run hp hst hf, ht, andThen_next]⟩

/-- Settles O45: a command that passes its checks is a datapath command, END, or a host command that takes effect. -/
theorem everyCommandCompletes : Obligations.EveryCommandCompletes := by
  refine ⟨exists_exec, exists_step, fun i s t hwf hframe hc ht => ?_⟩
  obtain ⟨u, hu, h⟩ := exec_noNewError hwf hframe hc
  obtain rfl := Host.Outcome.next.inj (hu.symm.trans ht)
  exact h

end Sys2Proof.Machine
end

section
/-! ### The IRQ output (spec/60_exceptions.md R406) -/

namespace Sys2Proof.Machine

open Sys2Proof Sys2Proof.Safety

/-- At the end of a command IRQ has its level, unless the command waits at an emit. -/
theorem irqOk_settle (s : State) : IrqOk (settle s) := by
  rcases settle_cases s with ⟨hst, he⟩ | ⟨-, he⟩ <;> rw [he]
  · exact fun h => absurd (hst.symm.trans h) nofun
  · exact fun _ => rfl

theorem irqOk_step {s t : State} (hs : IrqOk s) (ht : step s = .next t) : IrqOk t := by
  rcases step_cases ht with ⟨-, rfl⟩ | ⟨-, -, u, -, rfl⟩ | ⟨-, -, -, rfl⟩ | ⟨-, -, u, -, rfl⟩ |
    ⟨-, -, i, s', u, -, -, rfl⟩
  · exact hs
  · exact irqOk_settle u
  · exact hs
  · exact irqOk_settle u
  · exact irqOk_settle u

theorem irqOk_hostTake {s t : State} {w : Word} (ht : hostTake s = some (w, t)) : IrqOk t := by
  unfold hostTake at ht
  split at ht
  · cases ht
  · obtain ⟨-, rfl⟩ := Prod.mk.inj (Option.some.inj ht)
    exact irqOk_settle _

/-- Settles O50: a step waits, which changes nothing, or ends a command, and so does the host by taking a word; a word
sent touches no flag. -/
theorem irqFollowsFlagsAndEnables : Obligations.IrqFollowsFlagsAndEnables :=
  ⟨fun s => by simp only [irqLevel, Bool.or_eq_true, Bool.and_eq_true], fun _ _ => irqOk_step,
    fun _ _ _ _ => irqOk_hostTake, fun _ _ hs => hs⟩

end Sys2Proof.Machine
end

section
/-! ### Every FRAME ends (spec/40_sequencer.md R185, R186, spec/70_reset_and_hazards.md R461) -/

namespace Sys2Proof.Machine

open Sys2Proof

/-! #### The PC of a frame program -/

/-- A command of a frame program leaves the PC in place or, as END, ends the program (R186, R187). -/
theorem exec_program_pc {i : Instr} {s t : State} {p : Nat} (hp : s.pc = some p) (ht : exec i s = .next t) :
    t.pc = none ∨ t.pc = some p := by
  cases hh : i.opcode.hostOnly with
  | true =>
    obtain rfl := Host.Outcome.next.inj ((exec_hostOnly_program hp hh).symm.trans ht)
    exact .inr ((recordError_pc ..).trans hp)
  | false =>
    cases hu : i.unitOk with
    | false =>
      obtain rfl := Host.Outcome.next.inj ((exec_of_unitRange hu (.inr hh)).symm.trans ht)
      exact .inr ((recordError_pc ..).trans hp)
    | true =>
      by_cases hend : i = .endProg
      · subst hend
        obtain rfl := Host.Outcome.next.inj ht
        exact .inl rfl
      · obtain ⟨u, hu', hframe⟩ := exec_datapath hh hend hu s
        obtain rfl := Host.Outcome.next.inj (hu'.symm.trans ht)
        exact .inr ((congrArg State.pc hframe :).trans hp)

theorem one_le_commandLength (w : Word) : 1 ≤ commandLength w := by
  unfold commandLength
  split <;> omega

/-- From PMEM_DEPTH on there is no word. -/
theorem decode_programWords_of_le {p : Nat} (h : 256 ≤ p) (s : State) :
    decode (programWords p s) = .error .needWords := by
  rw [programWords, List.drop_eq_nil_of_le (by simpa using h)]
  rfl

/-- A pass of the loop ends the program or moves the PC forward, the latter only below PMEM_DEPTH (R186). -/
theorem programStep_pc {p : Nat} {s t : State} (hp : s.pc = some p) (ht : programStep p s = .next t) :
    t.pc = none ∨ (p < 256 ∧ ∃ q, t.pc = some q ∧ p < q) := by
  have hlt : decode (programWords p s) ≠ .error .needWords → p < 256 := fun hd =>
    Nat.lt_of_not_le fun h => hd (decode_programWords_of_le h s)
  have hfail : ∀ k w, ∃ q, (failInProgram k w s).pc = some q ∧ p < q := fun k w => by
    rw [failInProgram_eq hp]
    exact ⟨_, rfl, Nat.lt_add_of_pos_right (one_le_commandLength w)⟩
  rcases programStep_cases ht with ⟨i, rest, u, hd, hu, rfl⟩ | ⟨w, hd, rfl⟩ | ⟨w, hd, rfl⟩ | ⟨-, rfl⟩
  · rw [advancePc_pc]
    rcases exec_program_pc hp ((executeInProgram_eq_exec hp i).symm.trans hu) with h | h
    · exact .inl (by rw [h]; rfl)
    · exact .inr ⟨hlt (hd ▸ nofun), p + i.length, by rw [h]; rfl, by rw [Instr.length]; omega⟩
  · exact .inr ⟨hlt (hd ▸ nofun), hfail _ w⟩
  · exact .inr ⟨hlt (hd ▸ nofun), hfail _ w⟩
  · exact .inl rfl

/-! #### The run of a frame program, and FRAME -/

/-- A run with more passes than there are words from the PC on reaches its end: every further number of passes gives the
same state, which has no PC and IRQ at its level (R461; spec/60_exceptions.md R406). -/
theorem runProgram_ends {n p : Nat} {s : State} (hp : s.pc = some p) (hn : 256 - p < n) :
    ∃ u, (∀ m, n ≤ m → runProgram m s = .next u) ∧ u.pc = none ∧ u.irq = irqLevel u := by
  induction n generalizing s p with
  | zero => exact absurd hn (Nat.not_lt_zero _)
  | succ n ih =>
    obtain ⟨t, ht, -⟩ := HostBlind.programStep p s
    have hpass : ∀ m, runProgram (m + 1) s = runProgram m (updateIrq t) := fun m => by
      rw [runProgram_some hp, ht, andThen_next]
    suffices h : ∃ u, (∀ m, n ≤ m → runProgram m (updateIrq t) = .next u) ∧ u.pc = none ∧ u.irq = irqLevel u by
      obtain ⟨u, hrun, hu⟩ := h
      refine ⟨u, fun m hm => ?_, hu⟩
      obtain ⟨k, rfl⟩ := Nat.exists_eq_add_of_le' hm
      exact (hpass _).trans (hrun _ (Nat.le_add_left n k))
    rcases programStep_pc hp ht with hnone | ⟨hlt, q, hq, hpq⟩
    · exact ⟨updateIrq t, fun m _ => runProgram_none (s := updateIrq t) hnone m, hnone, rfl⟩
    · exact ih (s := updateIrq t) hq (by omega)

/-- After a run the count and the two words are all that is left of FRAME (R185). -/
theorem finishFrame_of_ended {u : State} (h : u.pc = none) :
    finishFrame u = { u with frameCnt := u.frameCnt + 1#32, rsp := u.rsp ++ [u.foutL, u.foutR] } := by
  simp only [finishFrame, emit, ← h, List.append_assoc, List.singleton_append]

/-- FRAME in the host context is a run that ends, with a program effect, and the end of that run counted and emitted. -/
theorem exec_frame_ends (l r : Word) {s : State} (hp : s.pc = none) :
    ∃ u, (∀ n, 257 ≤ n → runProgram n (startFrame l r s) = .next u) ∧ ProgramEffect (startFrame l r s) u ∧
      u.pc = none ∧ u.irq = irqLevel u ∧
      exec (.frame l r) s = .next { u with frameCnt := u.frameCnt + 1#32, rsp := u.rsp ++ [u.foutL, u.foutR] } := by
  obtain ⟨u, hrun, hpc, hirq⟩ := runProgram_ends (n := 257) (startFrame_pc l r s) (by decide)
  refine ⟨u, hrun, .runProgram (hrun 257 (Nat.le_refl _)), hpc, hirq, ?_⟩
  rw [execFrame_host hp, completeFrame, frameFuel, hrun 257 (Nat.le_refl _), andThen_next, finishFrame_of_ended hpc]

/-- The end of a command changes nothing where IRQ has its level already. -/
theorem settle_of_irq {s : State} (h : s.irq = irqLevel s) : settle s = s := by
  rcases settle_cases s with ⟨-, he⟩ | ⟨-, he⟩
  · exact he
  · rw [he, ← h]

/-- Settles O11: a pass ends the program or moves the PC forward, so PMEM_DEPTH + 1 passes reach the end. -/
theorem frameProgramEnds : Obligations.FrameProgramEnds := by
  refine ⟨fun l r s hp => ?_, fun l r s ws hp hst hin => ?_⟩
  · obtain ⟨u, hrun, heffect, hpc, hirq, hexec⟩ := exec_frame_ends l r hp
    exact ⟨u, hrun, hpc, (congrArg State.finL heffect.rest :), (congrArg State.finR heffect.rest :),
      (congrArg State.frameCnt heffect.rest :), (congrArg State.rsp heffect.rest :), hirq, hexec⟩
  · obtain ⟨u, -, heffect, hpc, hirq, hexec⟩ := exec_frame_ends l r (s := { s with hostIn := ws }) hp
    have hcount : u.frameCnt = s.frameCnt := (congrArg State.frameCnt heffect.rest :)
    have hrsp : u.rsp = s.rsp := (congrArg State.rsp heffect.rest :)
    have hd : decode s.hostIn = .ok (.frame l r, ws) := hin ▸ decodeOfEncode (.frame l r) ws
    refine ⟨_, hexec, ?_, hirq, (congrArg State.hostIn heffect.rest :), hpc, congrArg (· + 1#32) hcount,
      congrArg (· ++ [u.foutL, u.foutR]) hrsp⟩
    rw [step_of_run hp hst (fetchCommand_of_decode hd), hexec, andThen_next]
    exact congrArg Host.Outcome.next (settle_of_irq hirq)

end Sys2Proof.Machine
end

section
/-! ### Reset (spec/70_reset_and_hazards.md R440 to R446, spec/10_state.md R46 to R78) -/

namespace Sys2Proof.Machine

open Sys2Proof Sys2Proof.Safety

/-! #### The units after reset -/

theorem reset_line (l : Fin 44) : State.reset.lines[l] = resetLine l := Vector.getElem_ofFn _

theorem reset_filter (f : Fin 32) : State.reset.filters[f] = resetFilter := Vector.getElem_replicate _

theorem reset_comb (c : Fin 16) : State.reset.combs[c] = resetComb c := Vector.getElem_ofFn _

theorem reset_bank (b : Fin 2) : State.reset.banks[b] = resetBank := Vector.getElem_replicate _

theorem reset_chain (ch : Fin 4) : State.reset.chains[ch] = ⟨F32.zero, .canonical⟩ := Vector.getElem_replicate _

theorem reset_x (r : Fin 16) : State.reset.x[r] = F32.zero := Vector.getElem_replicate _

theorem reset_pmem (i : Fin 256) : State.reset.pmem[i] = 0#32 := Vector.getElem_replicate _

theorem reset_fdn_g (i : Fin 8) :
    State.reset.fdn.g[i] = (decayMag F32.c44100 (resetLine (fdl i)).len F32.one).1 := Vector.getElem_ofFn _

/-- DL_MAXMS by the number of the line (R48; spec/00_scope.md R6). -/
theorem resetLine_maxMs (l : Fin 44) :
    (resetLine l).maxMs =
      if l.val < 4 then F32.c500 else if l.val < 20 then F32.c100 else if l.val < 36 then F32.c50 else F32.c300 := by
  revert l; decide

/-- DL_CAP by the number of the line (R46; spec/00_scope.md R6). -/
theorem resetLine_cap (l : Fin 44) :
    (resetLine l).cap =
      if l.val < 4 then 22051 else if l.val < 20 then 4411 else if l.val < 36 then 2206 else 13231 := by
  revert l; decide

/-- The capacity is what CAPCALC gives at the rate and the maximum after reset (R46, R51). -/
theorem resetLine_capCalc (l : Fin 44) : (capCalc F32.c44100 l (resetLine l).maxMs).1 = (resetLine l).cap := by
  revert l; decide

/-- A line after reset is empty, with cursor 0, and its length is LENCALC of 0.0 ms (R47, R49, R52). -/
theorem resetLine_eq (l : Fin 44) :
    resetLine l =
      { maxMs := (resetLine l).maxMs
        lenMs := F32.zero
        cap := (resetLine l).cap
        len := (lenCalc F32.c44100 F32.one l F32.zero (resetLine l).cap).1
        wptr := 0
        buf := [] } := by
  unfold resetLine
  split <;> rfl

theorem bufferOk_resetLine (l : Fin 44) : BufferOk l (resetLine l) := by
  obtain ⟨hlow, hhigh⟩ := resetLine_capCalc l ▸ capCalc_bounds F32.c44100 l (resetLine l).maxMs
  rw [resetLine_eq]
  exact ⟨hlow, hhigh, Nat.lt_of_lt_of_le Nat.two_pos hlow, rfl, rfl⟩

/-! #### The reset procedure -/

theorem initProc_resetCanonical_lines (s : State) :
    (initProc (resetCanonical s)).lines = Vector.ofFn resetLine := by
  refine Vector.ext fun l hl => (initProc_line _ ⟨l, hl⟩).trans ?_
  have hcanon : (resetCanonical s).lines[(⟨l, hl⟩ : Fin 44)] = canonLine ⟨l, hl⟩ s.lines[l] := Vector.getElem_ofFn _
  rw [hcanon, Vector.getElem_ofFn, resetLine_eq, ← resetLine_capCalc]
  rfl

theorem initProc_resetCanonical_filters (s : State) :
    (initProc (resetCanonical s)).filters = Vector.replicate 32 resetFilter := by
  refine Vector.ext fun f hf => (initProc_filter _ ⟨f, hf⟩).trans ?_
  have hcanon : (resetCanonical s).filters[(⟨f, hf⟩ : Fin 32)] =
      { s.filters[f] with kind := .bypass, fc := F32.c1000, p := F32.one, co := bypassCoefs } :=
    Vector.getElem_ofFn _
  rw [hcanon, Vector.getElem_replicate]
  rfl

theorem initProc_resetCanonical_combs (s : State) :
    (initProc (resetCanonical s)).combs = Vector.ofFn resetComb := by
  refine Vector.ext fun c hc => (initProc_comb _ ⟨c, hc⟩).trans ?_
  have hcanon : (resetCanonical s).combs[(⟨c, hc⟩ : Fin 16)] = { s.combs[c] with makeup := F32.one } :=
    Vector.getElem_ofFn _
  have hbank : (resetCanonical s).banks[bankOf ⟨c, hc⟩] = resetBank := Vector.getElem_replicate _
  have hline : (Vector.ofFn resetLine)[cbl ⟨c, hc⟩] = resetLine (cbl ⟨c, hc⟩) := Vector.getElem_ofFn _
  rw [hcanon, hbank, initProc_resetCanonical_lines, hline, Vector.getElem_ofFn, resetComb, combGain_posOf]
  rfl

theorem initProc_resetCanonical_fdn (s : State) : (initProc (resetCanonical s)).fdn = resetFdn := by
  have hg : (initProc (resetCanonical s)).fdn.g = resetFdn.g := by
    refine Vector.ext fun i hi => (initProc_fdnGain _ ⟨i, hi⟩).trans ?_
    have hline : (Vector.ofFn resetLine)[fdl ⟨i, hi⟩] = resetLine (fdl ⟨i, hi⟩) := Vector.getElem_ofFn _
    rw [initProc_resetCanonical_lines, hline, resetFdn, Vector.getElem_ofFn]
    rfl
  have hmods : modCalc F32.c44100 F32.zero = F32.zero := by decide
  rw [initProc_fdn, hg]
  exact congrArg (fun m => { resetFdn with mods := m }) hmods

/-- Settles O55: the procedure sets every register that INIT takes as given, and INIT makes the rest. -/
theorem assertResetGivesTheResetState : Obligations.AssertResetGivesTheResetState := by
  intro s
  let d := resetCanonical s
  calc assertReset s
      = { { initProc d with
            lines := d.lines, filters := d.filters, combs := d.combs, fdn := d.fdn, clamp := d.clamp } with
          lines := (initProc d).lines, filters := (initProc d).filters, combs := (initProc d).combs
          fdn := (initProc d).fdn, err := false, clamp := false, hostIn := [], rsp := [], irq := false } := rfl
    _ = { d with
          lines := Vector.ofFn resetLine, filters := Vector.replicate 32 resetFilter, combs := Vector.ofFn resetComb
          fdn := resetFdn, err := false, clamp := false, hostIn := [], rsp := [], irq := false } := by
        rw [initProc_frame, initProc_resetCanonical_lines, initProc_resetCanonical_filters,
          initProc_resetCanonical_combs, initProc_resetCanonical_fdn]
    _ = State.reset := rfl

/-! #### The invariants -/

theorem settingsOk_reset : SettingsOk State.reset where
  fs := by decide
  line l := by
    have hcap : 2 ≤ (resetLine l).cap := (bufferOk_resetLine l).1
    have hmax : InRange F32.zero F32.c100000 (resetLine l).maxMs := by revert l; decide
    rw [reset_line, resetLine_eq]
    have hzero : InRange F32.zero F32.c100000 F32.zero := by decide
    exact ⟨hmax, hzero, hcap, inRange_lenCalc l (by decide) (by decide) hzero hcap⟩
  filter f := by rw [reset_filter]; decide
  comb c := by
    have hmakeup : F32.isFinite F32.one = true := by decide
    rw [reset_comb, reset_bank]
    exact ⟨hmakeup, combGainOk_combGain _ _ _ _⟩
  bank b := by rw [reset_bank]; decide
  chain ch := by rw [reset_chain]; decide
  fdn := by
    refine ⟨by decide, rfl, by decide, by decide, by decide, by decide, fun i => ?_⟩
    rw [reset_fdn_g]
    exact decayMag_le _ _ _

theorem audioOk_reset : AudioOk State.reset where
  x r := by rw [reset_x]; rfl
  finL := rfl
  finR := rfl
  foutL := rfl
  foutR := rfl
  line l := by rw [reset_line, resetLine_eq]; exact nofun
  filter f := by rw [reset_filter]; exact ⟨coefsFinite_bypass, rfl, rfl⟩

/-- Settles O60: the units after reset, one kind at a time. -/
theorem resetMeetsEveryInvariant : Obligations.ResetMeetsEveryInvariant := by
  obtain ⟨hranges, hlengths⟩ := settingsOk_reset.ranges_lengths
  exact ⟨fun l => reset_line l ▸ bufferOk_resetLine l, (audioOk_iff _).mp audioOk_reset, hranges, hlengths,
    ⟨rfl, Nat.zero_le _⟩, fun _ => rfl⟩

/-! #### What the registers read as -/

/-- A nominal delay of 0.0 ms is a length of one sample (R50, R52). -/
theorem lenCalc_of_zero {room ms : F32} {l : Fin 44} {cap : Nat} (h : effectiveMs room l ms = F32.zero)
    (hcap : 2 ≤ cap) : (lenCalc F32.c44100 room l ms cap).1 = F32.one := by
  obtain ⟨htop, hone⟩ := F32.one_le_ofNat (n := cap - 1) (by omega)
  have hzero : F32.div (F32.mul F32.zero F32.c44100) F32.c1000 = F32.zero := by decide
  have hlow : F32.lt (F32.ofNat (cap - 1)) F32.zero = false := by
    rw [F32.lt_eq_false_iff htop (by decide)] at hone ⊢
    exact Int.le_trans (by decide) hone
  have hless : F32.lt F32.zero F32.one = true := by decide
  simp only [lenCalc, h, hzero, hlow, hless, Bool.false_eq_true, if_false, if_true]

/-- A line of a right-channel unit, by its number (spec/00_scope.md R6). -/
abbrev RightLine (l : Fin 44) : Prop :=
  (12 ≤ l.val ∧ l.val < 20) ∨ (24 ≤ l.val ∧ l.val < 28) ∨ (32 ≤ l.val ∧ l.val < 36)

/-- DL_LEN of a line that STEREO_SPREAD_MS does not move (R52). -/
theorem resetLine_len_of_not_right {l : Fin 44} (h : ¬ RightLine l) : (resetLine l).len = F32.one := by
  have hms : effectiveMs F32.one l F32.zero = F32.zero := by
    have hmul : F32.mul F32.zero F32.one = F32.zero := by decide
    rw [effectiveMs_eq, if_neg h, hmul, ite_self]
  rw [resetLine_eq]
  exact lenCalc_of_zero hms (bufferOk_resetLine l).1

/-- DL_LEN of a line of a right-channel unit is LENCALC of STEREO_SPREAD_MS, which DL_CAP - 1 limits (R50, R52). -/
theorem resetLine_len_of_right {l : Fin 44} (h : RightLine l) :
    (resetLine l).len =
      let len := F32.div (F32.mul (F32.add F32.zero stereoSpreadMs) F32.c44100) F32.c1000
      let top := F32.ofNat (if l.val < 20 then 4410 else 2205)
      let low := if F32.lt top len then top else len
      if F32.lt low F32.one then F32.one else low := by
  have hcap : (resetLine l).cap - 1 = if l.val < 20 then 4410 else 2205 := by
    rw [resetLine_cap]
    split_ifs <;> omega
  have hms : effectiveMs F32.one l F32.zero = F32.add F32.zero stereoSpreadMs := by
    rw [effectiveMs_eq, if_neg (by omega), if_pos h]
  rw [resetLine_eq]
  simp only [lenCalc, hcap, hms]

/-- CB_FB is the decay law with the sign of the alternating mode (R61). -/
theorem resetComb_fb (c : Fin 16) :
    (resetComb c).fb =
      if c.val % 2 = 1 then F32.neg (capGain (decayLaw F32.c44100 (resetLine (cbl c)).len F32.one))
      else capGain (decayLaw F32.c44100 (resetLine (cbl c)).len F32.one) := by
  rw [resetComb, combGain_posOf]
  rfl

/-- FDN_G is the decay law at a length of one sample (R70). -/
theorem reset_fdnGain (i : Fin 8) : State.reset.fdn.g[i] = capGain (decayLaw F32.c44100 F32.one F32.one) := by
  have hright : ¬ RightLine (fdl i) := by simp only [RightLine, fdl]; omega
  rw [reset_fdn_g, resetLine_len_of_not_right hright]
  rfl

/-- Settles O54: the registers that no OPEN parameter reaches are constants of the reset state, and the lengths and gains
are their rules. -/
theorem resetRegisterValues : Obligations.ResetRegisterValues := by
  refine ⟨reset_x, ⟨rfl, rfl, rfl, rfl, rfl⟩, ⟨rfl, rfl, rfl, rfl⟩, rfl, ⟨rfl, rfl, rfl, rfl, rfl, rfl, rfl⟩, reset_pmem,
    fun l => ?line, fun f => ?filter, fun c => ?comb, fun b => ?bank, fun ch => ?chain,
    ⟨rfl, rfl, rfl, rfl, rfl, rfl, rfl, rfl, rfl⟩, reset_fdnGain, rfl, rfl, rfl⟩
  case line =>
    simp only [readReg, reset_line]
    refine ⟨resetLine_maxMs l, ?_, ?_, ?_, ?_, ?_⟩
    · rw [resetLine_cap]
      split_ifs <;> rfl
    · rw [resetLine_eq]; rfl
    · rw [resetLine_eq]
    · split
      next h => exact resetLine_len_of_right h
      next h => exact resetLine_len_of_not_right h
    · rw [resetLine_eq]; exact fun _ => rfl
  case filter =>
    simp only [readReg, reset_filter]
    exact ⟨rfl, rfl, rfl, rfl, rfl, rfl, rfl, rfl, rfl, rfl⟩
  case comb =>
    simp only [readReg, reset_comb, reset_line]
    exact ⟨resetComb_fb c, rfl⟩
  case bank =>
    simp only [readReg, reset_bank]
    exact ⟨rfl, rfl, rfl, rfl⟩
  case chain =>
    simp only [readReg, reset_chain]
    exact ⟨rfl, rfl⟩

end Sys2Proof.Machine
end
